-- ==== Sys2Proof/Word.lean ====
section
/-! DEFINITION. The word types of the block: bytes, command words, counters are bit vectors; everything the spec
treats as a count, a length, a tick or an index is a natural number (spec/00_scope.md rule R10). -/

namespace Sys2Proof

/-- R10: a byte is an unsigned integer in 0..255; bit 7 is the most significant bit. -/
abbrev Byte := BitVec 8

/-- R73: the command word the host issues. -/
abbrev Word := BitVec 32

end Sys2Proof
end

