-- ==== Sys2Proof/Config.lean ====
section
/-! DEFINITION. The parameters of spec/00_scope.md rule R8, each a named constant (R7), the two the spec leaves OPEN
(R9, 92_eei_decisions.md D21 and D39), and the one free value. -/

namespace Sys2Proof.Config

/-- R8 `START_MARKER` (0xD4): the first byte of every frame. -/
@[simp] abbrev startMarker : Byte := 212
/-- R8 `END_MARKER` (0xCC): the last byte of every frame. -/
@[simp] abbrev endMarker : Byte := 204
/-- R8 `HDR_LEN`: start marker, total length, sequence number. -/
@[simp] abbrev hdrLen : Nat := 3
/-- R8 `TRL_LEN`: checksum, end marker. -/
@[simp] abbrev trlLen : Nat := 2
/-- R8 `MIN_FRAME`: the length of a frame with an empty payload. -/
@[simp] abbrev minFrame : Nat := hdrLen + trlLen
/-- R8 `MAX_PAYLOAD`; 90_conflicts.md C1 (200, not 197). -/
@[simp] abbrev maxPayload : Nat := 200
/-- R8 `MAX_FRAME`. -/
@[simp] abbrev maxFrame : Nat := minFrame + maxPayload
/-- R8 `FRAME_BUF_CAP`: capacity of `TX_BUF` and of `RX_BUF`, the longest frame (92_eei_decisions.md D2). -/
@[simp] abbrev frameBufCap : Nat := maxFrame
/-- R8 `HOST_BUF_CAP`: capacity of `HOST_IN`, the longest frame (92_eei_decisions.md D30). -/
abbrev hostBufCap : Nat := maxFrame
/-- R8 `SEQ_MOD`. -/
@[simp] abbrev seqMod : Nat := 16
/-- R8 `CKSUM_MOD`. -/
@[simp] abbrev cksumMod : Nat := 251
/-- R8 `RX_NONE`: the value of `RX_LAST` that means "no frame accepted yet". -/
@[simp] abbrev rxNone : Int := -1
/-- R8 `DEFAULT_MAX_ATTEMPTS`: what the pseudo-instructions of R80 supply. -/
@[simp] abbrev defaultMaxAttempts : Nat := 5
/-- R8 `T_SEND_S`: the sender's wait for a response, in seconds. -/
@[simp] abbrev tSendSecs : Nat := 4
/-- R8 `T_RECV_S`: the receiver's wait for a frame, in seconds. -/
@[simp] abbrev tRecvSecs : Nat := 6
/-- R8 `OPTIMAL_BLOCK`: the advisory block size. -/
@[simp] abbrev optimalBlock : Nat := 70
/-- R8 `COUNTER_WIDTH`: the width of each traffic counter, in bits. -/
abbrev counterWidth : Nat := 32

/-- The channel configuration `CONFIG`: the provider's recognized options of R171. The block passes it to `ChanOpen`
and reads none of it (D39), so each option is an uninterpreted number. -/
structure ChannelConfig where
  deviceIdentifier          : Nat
  bitRate                   : Nat
  dataBitCount              : Nat
  parity                    : Nat
  receiveTimeoutConstant    : Nat
  receiveTimeoutInterval    : Nat
  simulatedErrorProbability : Nat
  deriving DecidableEq, Repr, Inhabited

/-- The two OPEN entries of R8, which the host fixes before anything else (R178 item 1) and no step changes (R9).
`TICKS_PER_SECOND` is positive (92_eei_decisions.md, "Parameters left open"). -/
structure Params where
  ticksPerSecond : ℕ+
  channel        : ChannelConfig
  deriving DecidableEq, Repr

/-- `TICKS_PER_SECOND` of the instance that `State.reset` describes: OPEN, so it has no value here (log entry 1). -/
opaque openTicksPerSecond : ℕ+

/-- `CONFIG` of the instance that `State.reset` describes: OPEN, so it has no value here (log entry 1). -/
opaque openChannelConfig : ChannelConfig

/-- `ATTEMPT` while no command runs: "any value" (93_implementation_defined.md I16, R39). Draw number `n` (log entry 5). -/
opaque idleAttempt : Nat → BitVec 8

/-- The OPEN parameters of the instance that `State.reset` describes. -/
def openParams : Params := { ticksPerSecond := openTicksPerSecond, channel := openChannelConfig }

end Sys2Proof.Config
end

