-- ==== Sys2Proof/Syntax.lean ====
section
/-! DEFINITION. The thirteen commands (spec/30_encoding.md rules R76 and R82), one constructor per row of
spec/opcode_table.json, and the assembly lines that stand for them (R79, R80). Operands are natural numbers: R78 reads
each operand byte "zero-extended to an unbounded natural number". -/

namespace Sys2Proof

/-- R76: the commands, with their operands named as R79 names them. -/
inductive Instr
  /-- 0x01, R149 -/
  | connect
  /-- 0x02, R150 -/
  | disconnect
  /-- 0x03, R118: payload length and attempts -/
  | send (len attempts : Nat)
  /-- 0x04, R134: the most payload bytes to return, and attempts -/
  | receive (max attempts : Nat)
  /-- 0x05, R151 -/
  | optimalBlockSize
  /-- 0x10, R91: sequence byte and total-length byte -/
  | checksum (seq tlen : Nat)
  /-- 0x11, R92: payload length and sequence byte -/
  | buildData (len seq : Nat)
  /-- 0x12, R93: the echoed sequence byte -/
  | buildAck (seq : Nat)
  /-- 0x13, R94: frame length -/
  | verify (n : Nat)
  /-- 0x14, R95: frame length and the most payload bytes to return -/
  | extract (n max : Nat)
  /-- 0x15, R107: time budget in seconds -/
  | readFrame (secs : Nat)
  /-- 0x16, R113: duration in seconds -/
  | setDeadline (secs : Nat)
  /-- 0x17, R114 -/
  | elapsed
  deriving DecidableEq, Repr

/-- R76 and R79: the mnemonic of a command. -/
def Instr.mnemonic : Instr → String
  | .connect          => "CONNECT"
  | .disconnect       => "DISCONNECT"
  | .send _ _         => "SEND"
  | .receive _ _      => "RECEIVE"
  | .optimalBlockSize => "OPTIMAL_BLOCK_SIZE"
  | .checksum _ _     => "CHECKSUM"
  | .buildData _ _    => "BUILD_DATA"
  | .buildAck _       => "BUILD_ACK"
  | .verify _         => "VERIFY"
  | .extract _ _      => "EXTRACT"
  | .readFrame _      => "READ_FRAME"
  | .setDeadline _    => "SET_DEADLINE"
  | .elapsed          => "ELAPSED"

/-- R79: the operands of a command line, as `name=value`, in the order they are written. -/
def Instr.operands : Instr → List (String × Nat)
  | .connect          => []
  | .disconnect       => []
  | .send l a         => [("len", l), ("attempts", a)]
  | .receive m a      => [("max", m), ("attempts", a)]
  | .optimalBlockSize => []
  | .checksum s t     => [("seq", s), ("tlen", t)]
  | .buildData l s    => [("len", l), ("seq", s)]
  | .buildAck s       => [("seq", s)]
  | .verify n         => [("n", n)]
  | .extract n m      => [("n", n), ("max", m)]
  | .readFrame t      => [("secs", t)]
  | .setDeadline t    => [("secs", t)]
  | .elapsed          => []

/-- R79 and R80: one line of an assembly program. -/
inductive AsmLine
  /-- a command line with all its operands -/
  | command (i : Instr)
  /-- R80: `SEND len=<L>` -/
  | sendDefault (len : Nat)
  /-- R80: `RECEIVE max=<M>` -/
  | receiveDefault (max : Nat)
  /-- R79: the host-side directive `.in b0, b1, …`, which has no encoding -/
  | hostInput (bytes : List Byte)
  deriving DecidableEq, Repr

/-- R80: the command a line stands for; none for the host directive. -/
def AsmLine.expand : AsmLine → Option Instr
  | .command i        => some i
  | .sendDefault l    => some (.send l Config.defaultMaxAttempts)
  | .receiveDefault m => some (.receive m Config.defaultMaxAttempts)
  | .hostInput _      => none

end Sys2Proof
end

