-- ==== Sys2Proof/WellFormed.lean ====
section
/-! DEFINITION. What makes a command encodable: each operand is an unsigned byte (spec/30_encoding.md rules R73, R78).
Nothing else limits an operand: a payload length over 200, a total length under 5 or 0 attempts are legal commands. -/

namespace Sys2Proof

/-- R73: an operand fits its field, an unsigned byte. -/
def operandFits (v : Nat) : Bool := decide (v < 256)

/-- A command is well formed when every operand fits its field. -/
def Instr.wellFormed : Instr → Bool
  | .connect          => true
  | .disconnect       => true
  | .send l a         => operandFits l && operandFits a
  | .receive m a      => operandFits m && operandFits a
  | .optimalBlockSize => true
  | .checksum s t     => operandFits s && operandFits t
  | .buildData l s    => operandFits l && operandFits s
  | .buildAck s       => operandFits s
  | .verify n         => operandFits n
  | .extract n m      => operandFits n && operandFits m
  | .readFrame t      => operandFits t
  | .setDeadline t    => operandFits t
  | .elapsed          => true

end Sys2Proof
end

