-- ==== Sys2Proof/Decode.lean ====
section
/-! DEFINITION. The command word (spec/30_encoding.md rules R73, R76, R77, R78): fields, decoder, encoder. Every word
decodes to a command or to the named reason it is illegal; the machine answers an illegal word with ILLEGAL_COMMAND. -/

namespace Sys2Proof

/-- Why a word is illegal (R77). -/
inductive DecodeError
  /-- R77 (a): `OP` is not in the opcode map -/
  | unassignedOpcode (op : Nat)
  /-- R77 (b): the field `Z` is not 0 -/
  | nonzeroZ
  /-- R77 (b): operand `A` must be 0 for this `OP` and is not -/
  | nonzeroA
  /-- R77 (b): operand `B` must be 0 for this `OP` and is not -/
  | nonzeroB
  deriving DecidableEq, Repr

/-- R73: `OP` is bits 7:0. -/
def opField (w : Word) : Nat := (w.extractLsb' 0 8).toNat
/-- R73, R78: `A` is bits 15:8, zero-extended. -/
def aField (w : Word) : Nat := (w.extractLsb' 8 8).toNat
/-- R73, R78: `B` is bits 23:16, zero-extended. -/
def bField (w : Word) : Nat := (w.extractLsb' 16 8).toNat
/-- R73: `Z` is bits 31:24. -/
def zField (w : Word) : Nat := (w.extractLsb' 24 8).toNat

/-- A row of R76 whose `A` must be 0. -/
def needZeroA (w : Word) (r : Except DecodeError Instr) : Except DecodeError Instr :=
  if aField w = 0 then r else .error .nonzeroA

/-- A row of R76 whose `B` must be 0. -/
def needZeroB (w : Word) (r : Except DecodeError Instr) : Except DecodeError Instr :=
  if bField w = 0 then r else .error .nonzeroB

/-- The opcode map of R76, one row a line: which command `OP` names, and which operand fields must be 0. -/
def decodeOp (w : Word) : Nat → Except DecodeError Instr
  | 0x01 => needZeroA w (needZeroB w (.ok .connect))
  | 0x02 => needZeroA w (needZeroB w (.ok .disconnect))
  | 0x03 => .ok (.send (aField w) (bField w))
  | 0x04 => .ok (.receive (aField w) (bField w))
  | 0x05 => needZeroA w (needZeroB w (.ok .optimalBlockSize))
  | 0x10 => .ok (.checksum (aField w) (bField w))
  | 0x11 => .ok (.buildData (aField w) (bField w))
  | 0x12 => needZeroA w (.ok (.buildAck (bField w)))
  | 0x13 => needZeroB w (.ok (.verify (aField w)))
  | 0x14 => .ok (.extract (aField w) (bField w))
  | 0x15 => needZeroB w (.ok (.readFrame (aField w)))
  | 0x16 => needZeroB w (.ok (.setDeadline (aField w)))
  | 0x17 => needZeroA w (needZeroB w (.ok .elapsed))
  | op   => .error (.unassignedOpcode op)

/-- R76, R77: the command a word stands for, or why it is illegal. -/
def decode (w : Word) : Except DecodeError Instr :=
  if zField w = 0 then decodeOp w (opField w) else .error .nonzeroZ

/-- R76: the `OP` of a command. -/
def Instr.opcode : Instr → Nat
  | .connect          => 0x01
  | .disconnect       => 0x02
  | .send _ _         => 0x03
  | .receive _ _      => 0x04
  | .optimalBlockSize => 0x05
  | .checksum _ _     => 0x10
  | .buildData _ _    => 0x11
  | .buildAck _       => 0x12
  | .verify _         => 0x13
  | .extract _ _      => 0x14
  | .readFrame _      => 0x15
  | .setDeadline _    => 0x16
  | .elapsed          => 0x17

/-- R76: what a command carries in operand `A`. -/
def Instr.operandA : Instr → Nat
  | .connect          => 0
  | .disconnect       => 0
  | .send l _         => l
  | .receive m _      => m
  | .optimalBlockSize => 0
  | .checksum s _     => s
  | .buildData l _    => l
  | .buildAck _       => 0
  | .verify n         => n
  | .extract n _      => n
  | .readFrame t      => t
  | .setDeadline t    => t
  | .elapsed          => 0

/-- R76: what a command carries in operand `B`. -/
def Instr.operandB : Instr → Nat
  | .connect          => 0
  | .disconnect       => 0
  | .send _ a         => a
  | .receive _ a      => a
  | .optimalBlockSize => 0
  | .checksum _ t     => t
  | .buildData _ s    => s
  | .buildAck s       => s
  | .verify _         => 0
  | .extract _ m      => m
  | .readFrame _      => 0
  | .setDeadline _    => 0
  | .elapsed          => 0

/-- R73: the word with `Z = 0` and the given `B`, `A` and `OP`. -/
def wordOfFields (b a op : Nat) : Word :=
  (0#8 ++ BitVec.ofNat 8 b ++ BitVec.ofNat 8 a ++ BitVec.ofNat 8 op : BitVec (8 + 8 + 8 + 8))

/-- R73, R76: the word of a command. -/
def encode (i : Instr) : Word := wordOfFields i.operandB i.operandA i.opcode

/-- What the decoder reads from a word of `nbits` bits whose value is `w`, numbered as spec/opcode_table.json numbers
it. A command word has 32 bits, so bits above them would have to be 0. -/
def decodeTableWord (nbits w : Nat) : Option Instr :=
  let v := w % 2 ^ nbits
  if v < 2 ^ 32 then (decode (BitVec.ofNat 32 v)).toOption else none

end Sys2Proof
end

