-- ==== Sys2Proof/Machine/State.lean ====
section
/-! DEFINITION. The state of one instance of the block (spec/10_state.md), as plain data, the reasons a step can stop,
and the state after power-on. The last five fields of `State` are the model's own: the instance's parameters, the
environment's side of the five primitives (spec/00_scope.md rule R14), and the count of free values. -/

namespace Sys2Proof.Machine

/-- A byte buffer (spec/20_memory.md rule R44): the bytes written so far, as (index, byte) pairs with strictly rising
indices. An index that is not listed is unwritten and holds no value (R43), so no byte is left out of the list. -/
abbrev Memory := List Host.Cell

/-- R24, R31: a traffic counter. -/
abbrev Counter := BitVec Config.counterWidth

/-- R14, R32: a channel handle `ChanOpen` returned; opaque to the block, which only passes it on. -/
structure Handle where
  id : Nat
  deriving DecidableEq, Repr

/-- R75: the status codes of `RESULT.STATUS`. Their numbers are in Machine/Flags.lean. -/
inductive Status
  | ok
  | usageError
  | transportFailure
  | giveUp
  | channelCode
  | illegalCommand
  | good
  | bad
  | frTimeout
  | frOverflow
  | frGot
  | frChannelError
  deriving DecidableEq, Repr

/-- R24: the six traffic counters, in the order of the report (R74). -/
structure Counters where
  framesSent : Counter
  goodRx     : Counter
  badRx      : Counter
  acksSent   : Counter
  acksRx     : Counter
  timeouts   : Counter
  deriving DecidableEq, Repr

/-- All six counters 0 (R43). -/
def Counters.zero : Counters :=
  { framesSent := 0, goodRx := 0, badRx := 0, acksSent := 0, acksRx := 0, timeouts := 0 }

/-- R74: the result record. `code` is an unbounded integer (D33). -/
structure Result where
  status : Status
  value  : BitVec 16
  seq    : Byte
  code   : Int
  report : Counters
  deriving DecidableEq, Repr

/-- R99: what the framer reports. -/
inductive FramerOutcome
  | timeout
  | overflow
  | got (n : Nat)
  | channelError (c : Int)
  deriving DecidableEq, Repr

/-- R103: which of the framer's three loops runs. In the body loop the target size is known. -/
inductive Phase
  | hunt
  | length
  | body (target : Nat)
  deriving DecidableEq, Repr

/-- R98: who called the framer, with the loop variables of the caller (R129, R146). The attempt number is in `ATTEMPT`. -/
inductive Caller
  | readFrame
  | send (len maxAttempts : Nat)
  | receive (maxSize maxAttempts expected : Nat)
  deriving DecidableEq, Repr

/-- R146: which path of `RECEIVE` an acknowledgment belongs to. -/
inductive AckPath
  | newBlock
  | duplicate
  | outOfSequence
  deriving DecidableEq, Repr

/-- R38: the control state: `IDLE`, or the control point of a running command with the command's loop variables. -/
inductive Ctrl
  | idle
  /-- R153: `CONNECT` waits for `ChanOpen` -/
  | lOpen
  /-- R153: `DISCONNECT` waits for `ChanClose` -/
  | lClose
  /-- R113: `SET_DEADLINE` waits for `Now()` -/
  | tSet (secs : Nat)
  /-- R114: `ELAPSED` waits for `Now()` -/
  | tElapsed
  /-- R108: `READ_FRAME` waits for the `Now()` that sets its deadline -/
  | fCmdT (secs : Nat)
  /-- R108: `F_HUNT_T`, `F_LEN_T`, `F_BODY_T`: the framer waits for `Now()` -/
  | framerT (caller : Caller) (dl : Nat) (phase : Phase)
  /-- R108: `F_HUNT_R`, `F_LEN_R`, `F_BODY_R`: the framer waits for `ChanRead` -/
  | framerR (caller : Caller) (dl : Nat) (phase : Phase)
  /-- R129: `SEND` waits for the `ChanWrite` of its data frame -/
  | sWrite (len maxAttempts : Nat)
  /-- R129: `SEND` waits for the `Now()` that sets the deadline -/
  | sDl (len maxAttempts : Nat)
  /-- R146: `RECEIVE` waits for the `Now()` that sets the deadline -/
  | rDl (maxSize maxAttempts expected : Nat)
  /-- R146: `RECEIVE` waits for the `ChanWrite` of an acknowledgment; `s` and `d` are the received frame's sequence
  field and truncated payload -/
  | rAck (maxSize maxAttempts expected : Nat) (path : AckPath) (s : Byte) (d : List Byte)
  deriving DecidableEq, Repr

/-- R14: an answer of `ChanOpen`. -/
inductive OpenAnswer
  | ok (h : Handle)
  | err (c : Int)
  deriving DecidableEq, Repr

/-- R14: an answer of `ChanClose`. -/
inductive CloseAnswer
  | ok
  | err (c : Int)
  deriving DecidableEq, Repr

/-- R14: an answer of `ChanRead`. -/
inductive ReadAnswer
  | bytes (ys : List Byte)
  | error (c : Int)
  deriving DecidableEq, Repr

/-- R14: a call of an environment primitive, with its arguments. -/
inductive Call
  | chanOpen (config : Config.ChannelConfig)
  | chanClose (h : Handle)
  | chanWrite (h : Handle) (xs : List Byte)
  | chanRead (h : Handle) (m : Nat)
  | now
  deriving DecidableEq, Repr

/-- R14: an answer of an environment primitive. -/
inductive Answer
  | chanOpen (r : OpenAnswer)
  | chanClose (r : CloseAnswer)
  | chanWrite (k : Int)
  | chanRead (r : ReadAnswer)
  | now (t : Nat)
  deriving DecidableEq, Repr

/-- R14: "Each call is one atomic exchange with the environment". -/
structure Exchange where
  call   : Call
  answer : Answer
  deriving DecidableEq, Repr

/-- What reaches the block from outside, one item at a time: the host's two actions (R72) and the answers of the
environment (R14). -/
inductive Input
  /-- R35, R72: the host writes one byte of `HOST_IN` -/
  | hostWrite (i : Fin Config.hostBufCap) (b : Byte)
  /-- R72: the host issues a command word -/
  | command (w : Word)
  /-- R14: the environment answers the call in progress -/
  | answer (a : Answer)
  deriving DecidableEq, Repr

/-- R20: one instance of the block. -/
structure State where
  /-- R21 `CONNECTED` -/
  connected  : Bool
  /-- R22 `TX_SEQ`, 4 bits unsigned -/
  txSeq      : BitVec 4
  /-- R23 `RX_LAST`, 8 bits two's complement -/
  rxLast     : Byte
  /-- R24 to R30: the six traffic counters -/
  counters   : Counters
  /-- R32 `CHAN_HANDLE`; none is the spec's `NONE` -/
  chanHandle : Option Handle
  /-- R33 `TX_BUF` -/
  txBuf      : Memory
  /-- R33 `TX_LEN` -/
  txLen      : Nat
  /-- R34 `RX_BUF` -/
  rxBuf      : Memory
  /-- R34 `RX_LEN` -/
  rxLen      : Nat
  /-- R35 `HOST_IN` -/
  hostIn     : Memory
  /-- R36 `HOST_OUT` -/
  hostOut    : Memory
  /-- R36 `OUT_LEN` -/
  outLen     : Nat
  /-- R37 `DEADLINE`, in ticks -/
  deadline   : Nat
  /-- R38 `CTRL` -/
  ctrl       : Ctrl
  /-- R39 `ATTEMPT`, 8 bits; without meaning while `CTRL = IDLE` -/
  attempt    : BitVec 8
  /-- R40 `RESULT` -/
  result     : Result
  /-- R41 `REFUSED`: an instance in which it is set takes no step -/
  refused    : Bool
  /-- model's own: the OPEN parameters of R8, which no step changes (R9) -/
  params     : Config.Params
  /-- model's own: the last answer of `Now()`, below which no later answer lies (R14); 0 before the first -/
  lastNow    : Nat
  /-- model's own: what is still to come from the host and the environment, the next item first -/
  inputs     : List Input
  /-- model's own: the exchanges with the environment so far, the latest first -/
  trace      : List Exchange
  /-- model's own: how many free values have been drawn (`Config.idleAttempt`) -/
  draws      : Nat
  deriving DecidableEq, Repr

/-- Why the machine stops with a fault. The block itself has no traps (R156); the two reasons below stand for states
in which a rule would read something that does not exist. No run reaches one (Obligations.NoStepFaults), so both are safe. -/
inductive Fault
  /-- raised by `waiting` and the framer's callers: a byte of `TX_BUF[0..TX_LEN)` or `RX_BUF[0..n)` is unwritten, where
  R43 says that no rule reads an unwritten byte but one of `HOST_IN`; safe -/
  | unwrittenFrameByte
  /-- raised by `waiting`: a channel primitive is to be called while `CHAN_HANDLE = NONE`, against R98 and R170; safe -/
  | noChannelHandle
  deriving DecidableEq, Repr

/-- The refusals: `REFUSE(reason)` of R13 and R174, which ends the run, and the model's own. -/
inductive Refusal
  /-- raised by exec for an instruction that has no meaning yet; safe -/
  | notModelled (mnemonic : String)
  /-- R149, D18: raised by `CONNECT` while `CONNECTED = 1`; safe -/
  | connectWhileConnected
  /-- R72, D38: raised when a command is issued while `CTRL ≠ IDLE`; for an illegal word then, DESIGN CHOICE (log entry 20);
  safe -/
  | commandWhileBusy
  /-- R72, D38: raised when the host writes `HOST_IN` while `CTRL ≠ IDLE`; safe -/
  | hostWriteWhileBusy
  /-- R45, D30: raised by a command that would read an unwritten `HOST_IN` byte; safe -/
  | unwrittenHostInput
  /-- R87, D29: raised by `build_data_frame` on more than `MAX_PAYLOAD` bytes; safe -/
  | oversizedBuild
  /-- R90: raised by `extract_payload` on a frame that is not Good; safe -/
  | extractUnverified
  /-- R14, D32: raised on an answer outside the contract of the call in progress, or with no call in progress; the
  environment never gives one; safe -/
  | answerOutsideContract
  /-- R41: raised by every step of an instance whose `REFUSED` is set; safe -/
  | alreadyRefused
  deriving DecidableEq, Repr

/-- The outcome of a step or of a meaning. -/
abbrev Out := Host.Outcome State Fault Refusal

/-- R43: `RESULT` after power-on: status `OK`, all fields 0. -/
def Result.zero : Result :=
  { status := .ok, value := 0, seq := 0, code := 0, report := Counters.zero }

/-- R43, R176: the state after power-on. `RX_LAST` is −1, the byte 0xFF; the buffers are unwritten. The host has issued
nothing and the environment has answered nothing. -/
def State.reset : State where
  connected  := false
  txSeq      := 0
  rxLast     := 0xFF
  counters   := Counters.zero
  chanHandle := none
  txBuf      := []
  txLen      := 0
  rxBuf      := []
  rxLen      := 0
  hostIn     := []
  hostOut    := []
  outLen     := 0
  deadline   := 0
  ctrl       := .idle
  attempt    := 0
  result     := Result.zero
  refused    := false
  params     := Config.openParams
  lastNow    := 0
  inputs     := []
  trace      := []
  draws      := 0

end Sys2Proof.Machine
end

