-- ==== Sys2Proof/Machine/Flags.lean ====
section
/-! DEFINITION. The block has no condition codes (spec/10_state.md rule R21). This file holds what it decides with
instead: the numbers of the status codes, the elapsed test, the comparisons of sequence values, and the increments of the
sequence register and of the counters. -/

namespace Sys2Proof.Machine

/-- R75: the number of a status code. -/
def Status.code : Status → Byte
  | .ok               => 0x00
  | .usageError       => 0x01
  | .transportFailure => 0x02
  | .giveUp           => 0x03
  | .channelCode      => 0x04
  | .illegalCommand   => 0x05
  | .good             => 0x10
  | .bad              => 0x11
  | .frTimeout        => 0x20
  | .frOverflow       => 0x21
  | .frGot            => 0x22
  | .frChannelError   => 0x23

/-- R111: the deadline `dl` has elapsed when the clock answers `t`; the comparison is inclusive. -/
def elapsed (dl t : Nat) : Bool := decide (dl ≤ t)

/-- R123, D13: the sequence field of a valid response is a positive acknowledgment when it equals `TX_SEQ` as an
unsigned integer; the field is never masked. -/
def isPositiveAck (field : Byte) (txSeq : BitVec 4) : Bool := decide (field.toNat = txSeq.toNat)

/-- R22: `(TX_SEQ + 1) mod 16`. -/
def nextTxSeq (txSeq : BitVec 4) : BitVec 4 := BitVec.ofNat 4 ((txSeq.toNat + 1) % Config.seqMod)

/-- R10 `sint8`: a byte read as two's complement. `RX_LAST` is read so (R23). -/
def sint8 (b : Byte) : Int := if b.toNat < 128 then (b.toNat : Int) else (b.toNat : Int) - 256

/-- R10 `u8`: the byte `v mod 256`. -/
def u8 (v : Int) : Byte := BitVec.ofInt 8 v

/-- R132: `expected = (RX_LAST + 1) mod 16`, with the Euclidean remainder of R10. -/
def expectedSeq (rxLast : Byte) : Nat := ((sint8 rxLast + 1) % (Config.seqMod : Int)).toNat

/-- R136, R137, R138, D13: how `RECEIVE` classifies the sequence field of a Good frame: expected, then duplicate, then
other. The field is unsigned, `RX_LAST` signed, and neither is masked. -/
def classify (field : Byte) (expected : Nat) (rxLast : Byte) : AckPath :=
  if field.toNat = expected then .newBlock
  else if sint8 rxLast ≠ Config.rxNone ∧ (field.toNat : Int) = sint8 rxLast then .duplicate
  else .outOfSequence

/-- R25: one more full data-frame write. Every increment wraps at `COUNTER_WIDTH` bits (R31). -/
def Counters.countFrameSent (c : Counters) : Counters := { c with framesSent := c.framesSent + 1 }
/-- R26: one more valid frame at the receiver. -/
def Counters.countGoodRx (c : Counters) : Counters := { c with goodRx := c.goodRx + 1 }
/-- R27: one more frame that fails `verify_frame`, at either engine. -/
def Counters.countBadRx (c : Counters) : Counters := { c with badRx := c.badRx + 1 }
/-- R28: one more full acknowledgment write. -/
def Counters.countAckSent (c : Counters) : Counters := { c with acksSent := c.acksSent + 1 }
/-- R29: one more valid response at the sender. -/
def Counters.countAckRx (c : Counters) : Counters := { c with acksRx := c.acksRx + 1 }
/-- R30: one more `Timeout` or `Overflow` at either engine. -/
def Counters.countTimeout (c : Counters) : Counters := { c with timeouts := c.timeouts + 1 }

end Sys2Proof.Machine
end

