-- ==== Sys2Proof/Machine/Memory.lean ====
section
/-! DEFINITION. Reading and writing a byte buffer (spec/20_memory.md rule R45, spec/00_scope.md rule R11). -/

namespace Sys2Proof.Machine

/-- The canonical form of a buffer: indices strictly rising. (Nothing is left out of the list: an index that is not
listed has no value.) -/
abbrev Memory.wf (m : Memory) : Prop := m.Pairwise (fun x y => x.1 < y.1)

/-- R45: byte `i` of a buffer; none where it is unwritten. -/
def Memory.read : Memory → Nat → Option Byte
  | [], _ => none
  | (a, b) :: rest, i => if i = a then some b else Memory.read rest i

/-- R11 `BUF[i] <- v`. -/
def Memory.write : Memory → Nat → Byte → Memory
  | [], i, v => [(i, v)]
  | (a, b) :: rest, i, v =>
    if i < a then (i, v) :: (a, b) :: rest
    else if i = a then (i, v) :: rest
    else (a, b) :: Memory.write rest i v

/-- R11 `BufRead(BUF, i, n)`: the bytes `BUF[i..i+n)`, where all of them are written. -/
def bufRead (m : Memory) : Nat → Nat → Option (List Byte)
  | _, 0 => some []
  | i, n + 1 =>
    match m.read i, bufRead m (i + 1) n with
    | some b, some bs => some (b :: bs)
    | _, _ => none

/-- R11 `BufWrite(BUF, i, xs)`: write `xs` starting at `BUF[i]`. -/
def bufWrite (m : Memory) : Nat → List Byte → Memory
  | _, [] => m
  | i, x :: xs => bufWrite (m.write i x) (i + 1) xs

end Sys2Proof.Machine
end

