-- ==== Sys2Proof/Machine/Ops.lean ====
section
/-! DEFINITION. The shared operations: ending a command (spec/00_scope.md rule R12, spec/60_exceptions.md rule R160),
reading the host input buffer, placing a frame in the transmit buffer, writing the host output buffer, and the exchange
with the environment (R14). -/

namespace Sys2Proof.Machine

/-! ### Results and the end of a command -/

/-- R74, D37: a result with the given status and every other field 0. -/
def Result.plain (st : Status) : Result := { Result.zero with status := st }

/-- R74: a result that lists `VALUE`. -/
def Result.withValue (st : Status) (v : Nat) : Result := { Result.plain st with value := BitVec.ofNat 16 v }

/-- R74: a result that lists `CODE`. -/
def Result.withCode (st : Status) (c : Int) : Result := { Result.plain st with code := c }

/-- R12 `finish S(fields)`: write `RESULT` and return to `IDLE`. `ATTEMPT` has no meaning from here on (R39): it holds any
value (I16). This is also what an error does: the block has no traps,
`raise E(info)` means `finish E(info)`, which saves nothing, changes no mode, and undoes no earlier write (R160). There
is no return from it (R161). -/
def State.finish (s : State) (r : Result) : State :=
  { s with result := r, ctrl := .idle, attempt := Config.idleAttempt s.draws, draws := s.draws + 1 }

/-- The step that ends a command. -/
def done (r : Result) (s : State) : Out := .next (s.finish r)

/-- R116, R131, R133, R152: end with `USAGE_ERROR` and no other effect while `CONNECTED = 0`. -/
def whenConnected (s : State) (k : Out) : Out :=
  if s.connected then k else done (Result.plain .usageError) s

/-! ### Buffers -/

/-- R45: the bytes `HOST_IN[0..n)`; a command that would read an unwritten one is refused. -/
def withHostIn (n : Nat) (s : State) (k : List Byte → Out) : Out :=
  match bufRead s.hostIn 0 n with
  | some xs => k xs
  | none    => .refused .unwrittenHostInput

/-- R34: the bytes `RX_BUF[0..n)` after `Got(n)`. The framer has written them all. -/
def withRxFrame (n : Nat) (s : State) (k : List Byte → Out) : Out :=
  match bufRead s.rxBuf 0 n with
  | some f => k f
  | none   => .fault .unwrittenFrameByte

/-- R33: place a frame at `TX_BUF[0..TX_LEN)`; bytes beyond it keep what they held. -/
def State.putTx (s : State) (f : List Byte) : State :=
  { s with txBuf := bufWrite s.txBuf 0 f, txLen := f.length }

/-- R36: return data at `HOST_OUT[0..OUT_LEN)`. -/
def State.putOut (s : State) (d : List Byte) : State :=
  { s with hostOut := bufWrite s.hostOut 0 d, outLen := d.length }

/-- R72: the host writes one byte of `HOST_IN`, only while `CTRL = IDLE`. -/
def hostWrite (i : Fin Config.hostBufCap) (b : Byte) (s : State) : Out :=
  if s.ctrl = .idle then .next { s with hostIn := s.hostIn.write i.val b } else .refused .hostWriteWhileBusy

/-! ### The exchange with the environment -/

/-- R102, R103: how many bytes the framer asks `ChanRead` for. -/
def readSize (rxLen : Nat) : Phase → Nat
  | .hunt        => 1
  | .length      => 1
  | .body target => min (target - rxLen) (Config.frameBufCap - rxLen)

/-- What the block waits for. -/
inductive Waiting
  /-- no command runs -/
  | nothing
  /-- a primitive is being called -/
  | call (c : Call)
  /-- a call cannot be formed; in no state a run reaches -/
  | broken (f : Fault)
  deriving DecidableEq, Repr

/-- R32: every channel call passes `CHAN_HANDLE`. -/
def State.withHandle (s : State) (k : Handle → Waiting) : Waiting :=
  match s.chanHandle with
  | some h => k h
  | none   => .broken .noChannelHandle

/-- R33, R48: the frame `TX_BUF[0..TX_LEN)` goes to `ChanWrite` whole, in one call. -/
def State.writeCall (s : State) : Waiting :=
  s.withHandle fun h =>
    match bufRead s.txBuf 0 s.txLen with
    | some xs => .call (.chanWrite h xs)
    | none    => .broken .unwrittenFrameByte

/-- R108, R113, R114, R129, R146, R153: the call whose answer each control point waits for. -/
def State.waiting (s : State) : Waiting :=
  match s.ctrl with
  | .idle              => .nothing
  | .lOpen             => .call (.chanOpen s.params.channel)
  | .lClose            => s.withHandle fun h => .call (.chanClose h)
  | .tSet _            => .call .now
  | .tElapsed          => .call .now
  | .fCmdT _           => .call .now
  | .framerT _ _ _     => .call .now
  | .framerR _ _ phase => s.withHandle fun h => .call (.chanRead h (readSize s.rxLen phase))
  | .sWrite _ _        => s.writeCall
  | .sDl _ _           => .call .now
  | .rDl _ _ _         => .call .now
  | .rAck _ _ _ _ _ _  => s.writeCall

/-- R14: the answers a call's contract allows. `lastNow` is the last answer of `Now()`. -/
def Call.admits (lastNow : Nat) : Call → Answer → Bool
  | .chanOpen _,     .chanOpen _            => true
  | .chanClose _,    .chanClose _           => true
  | .chanWrite _ xs, .chanWrite k           => decide (k ≤ (xs.length : Int))
  | .chanRead _ m,   .chanRead (.bytes ys)  => decide (ys.length ≤ m)
  | .chanRead _ _,   .chanRead (.error c)   => decide (c < 0)
  | .now,            .now t                 => decide (lastNow ≤ t)
  | _,               _                      => false

/-- R14: the clock's last answer after an answer. -/
def Answer.clock (lastNow : Nat) : Answer → Nat
  | .now t        => t
  | .chanOpen _   => lastNow
  | .chanClose _  => lastNow
  | .chanWrite _  => lastNow
  | .chanRead _   => lastNow

/-- R14: an exchange takes place. -/
def State.exchange (s : State) (c : Call) (a : Answer) : State :=
  { s with lastNow := a.clock s.lastNow, trace := { call := c, answer := a } :: s.trace }

end Sys2Proof.Machine
end

