-- ==== Sys2Proof/Machine/Operands.lean ====
section
/-! DEFINITION. The operand forms (spec/30_encoding.md rule R78): a byte operand, used as a number or as a byte of a
frame; a duration in seconds, scaled to ticks; payload and frame bytes, which come from `HOST_IN` (Machine/Ops.lean,
`withHostIn`). -/

namespace Sys2Proof.Machine

/-- R78: an operand used as a byte of a frame (a sequence byte, a total-length byte). -/
def byteOperand (v : Nat) : Byte := BitVec.ofNat 8 v

/-- R78: a duration in seconds, in ticks: the operand times `TICKS_PER_SECOND`. -/
def secondsToTicks (secs : Nat) (p : Config.Params) : Nat := secs * (p.ticksPerSecond : Nat)

/-- R8 `T_SEND`, in ticks. -/
def tSend (p : Config.Params) : Nat := secondsToTicks Config.tSendSecs p

/-- R8 `T_RECV`, in ticks. -/
def tRecv (p : Config.Params) : Nat := secondsToTicks Config.tRecvSecs p

/-- R64, R119: `TX_SEQ` as the sequence byte of a data frame. -/
def seqByte (txSeq : BitVec 4) : Byte := BitVec.ofNat 8 txSeq.toNat

end Sys2Proof.Machine
end

