-- ==== Sys2Proof/Machine/Lifecycle.lean ====
section
/-! DEFINITION. The connection lifecycle (spec/45_lifecycle.md): `CONNECT`, `DISCONNECT`, `OPTIMAL_BLOCK_SIZE`. -/

namespace Sys2Proof.Machine

/-- R149 `CONNECT`: refused while connected (D18); else wait for `ChanOpen` at `L_OPEN`. -/
def execConnect (s : State) : Out :=
  if s.connected then .refused .connectWhileConnected else .next { s with ctrl := .lOpen }

/-- R149, R177: the block's one reset: what a successful `CONNECT` writes beside `RESULT`. -/
def State.openSession (s : State) (h : Handle) : State :=
  { s with
    chanHandle := some h
    connected  := true
    txSeq      := 0
    rxLast     := u8 Config.rxNone
    counters   := Counters.zero }

/-- R149: `ChanOpen` answers at `L_OPEN`. -/
def connectOpened (r : OpenAnswer) (s : State) : Out :=
  match r with
  | .ok h  => done (Result.plain .ok) (s.openSession h)
  | .err c => done (Result.withCode .channelCode c) s

/-- R150 `DISCONNECT`: wait for `ChanClose` at `L_CLOSE`. -/
def execDisconnect (s : State) : Out :=
  whenConnected s (.next { s with ctrl := .lClose })

/-- R150: what `DISCONNECT` writes beside `RESULT`, whatever the close answered. -/
def State.closeSession (s : State) : State := { s with connected := false, chanHandle := none }

/-- R150: `ChanClose` answers at `L_CLOSE`. The report is the final counters, or 0 when the close failed (D31). -/
def disconnectClosed (r : CloseAnswer) (s : State) : Out :=
  match r with
  | .ok    => done { Result.plain .ok with report := s.counters } s.closeSession
  | .err c => done (Result.withCode .channelCode c) s.closeSession

/-- R151 `OPTIMAL_BLOCK_SIZE`. -/
def execOptimalBlockSize (s : State) : Out := done (Result.withValue .ok Config.optimalBlock) s

end Sys2Proof.Machine
end

