-- ==== Sys2Proof/Machine/Codec.lean ====
section
/-! DEFINITION. The Frame Codec (spec/40_codec.md): checksum, build, verify, extract, and the five test-access commands
over them. No codec command touches `CONNECTED`, `TX_SEQ`, `RX_LAST` or a counter, and none calls a primitive. -/

namespace Sys2Proof.Machine

/-! ### The functions -/

/-- R11 `sum(xs)`: the integer sum of the bytes, with no wrap-around. -/
def sumBytes (xs : List Byte) : Nat := (xs.map BitVec.toNat).sum

/-- R84: the unbounded sum of sequence byte, total-length byte and payload, reduced mod 251 once at the end. -/
def checksum (seq tlen : Byte) (payload : List Byte) : Byte :=
  BitVec.ofNat 8 ((seq.toNat + tlen.toNat + sumBytes payload) % Config.cksumMod)

/-- R61: the frame of a payload with a sequence byte, `[212, P + 5, seq] ++ payload ++ [checksum, 204]`. -/
def frameOf (payload : List Byte) (seq : Byte) : List Byte :=
  let tlen : Byte := BitVec.ofNat 8 (payload.length + Config.minFrame)
  [Config.startMarker, tlen, seq] ++ payload ++ [checksum seq tlen payload, Config.endMarker]

/-- R87 `build_data_frame`: the frame, for a payload of at most `MAX_PAYLOAD` bytes; refused on a longer one (D29). -/
def buildDataFrame (payload : List Byte) (seq : Byte) : Except Refusal (List Byte) :=
  if payload.length ≤ Config.maxPayload then .ok (frameOf payload seq) else .error .oversizedBuild

/-- R88 `build_ack_frame(seq) = build_data_frame([], seq)`. -/
def buildAckFrame (seq : Byte) : Except Refusal (List Byte) := buildDataFrame [] seq

/-- R89: the two verdicts. -/
inductive Verdict
  | good
  | bad
  deriving DecidableEq, Repr

/-- R11 `xs[i]`. Every use stands behind the check that index `i` exists. -/
def byteAt (f : List Byte) (i : Nat) : Byte := f.getD i 0

/-- R11 `xs[i..j)`. -/
def slice (f : List Byte) (i j : Nat) : List Byte := (f.drop i).take (j - i)

/-- R89 `verify_frame`: the checks in the rule's order; the first that fails gives Bad. -/
def verifyFrame (f : List Byte) : Verdict :=
  let n := f.length
  if n < Config.minFrame then .bad
  else if (byteAt f 1).toNat ≠ n then .bad
  else if byteAt f 0 ≠ Config.startMarker then .bad
  else if byteAt f (n - 1) ≠ Config.endMarker then .bad
  else if byteAt f (n - Config.trlLen) ≠
    checksum (byteAt f 2) (byteAt f 1) (slice f Config.hdrLen (n - Config.trlLen)) then .bad
  else .good

/-- R90 `extract_payload`: the sequence field and the payload, truncated to `maxSize` bytes; refused on a frame that is
not Good. -/
def extractPayload (f : List Byte) (maxSize : Nat) : Except Refusal (Byte × List Byte) :=
  if verifyFrame f = .good then
    let p := (byteAt f 1).toNat - Config.minFrame
    .ok (byteAt f 2, slice f Config.hdrLen (Config.hdrLen + min p maxSize))
  else .error .extractUnverified

/-! ### Using a build or an extraction in a command -/

/-- R87: build a data frame, place it in `TX_BUF` and go on. -/
def withBuilt (r : Except Refusal (List Byte)) (s : State) (k : State → Out) : Out :=
  match r with
  | .ok f    => k (s.putTx f)
  | .error e => .refused e

/-- R90: extract and go on. -/
def withExtracted (r : Except Refusal (Byte × List Byte)) (k : Byte → List Byte → Out) : Out :=
  match r with
  | .ok (s, d) => k s d
  | .error e   => .refused e

/-! ### The commands -/

/-- R91 `CHECKSUM seq, tlen`. -/
def execChecksum (seq tlen : Nat) (s : State) : Out :=
  if tlen < Config.minFrame ∨ Config.maxFrame < tlen then done (Result.plain .usageError) s
  else withHostIn (tlen - Config.minFrame) s fun p =>
    done (Result.withValue .ok (checksum (byteOperand seq) (byteOperand tlen) p).toNat) s

/-- R92 `BUILD_DATA len, seq`. -/
def execBuildData (len seq : Nat) (s : State) : Out :=
  if Config.maxPayload < len then done (Result.plain .usageError) s
  else withHostIn len s fun p =>
    withBuilt (buildDataFrame p (byteOperand seq)) s fun s' => done (Result.withValue .ok s'.txLen) s'

/-- R93 `BUILD_ACK seq`. -/
def execBuildAck (seq : Nat) (s : State) : Out :=
  withBuilt (buildAckFrame (byteOperand seq)) s fun s' => done (Result.withValue .ok Config.minFrame) s'

/-- R94 `VERIFY n`. -/
def execVerify (n : Nat) (s : State) : Out :=
  if Config.hostBufCap < n then done (Result.plain .usageError) s
  else withHostIn n s fun f =>
    match verifyFrame f with
    | .good => done (Result.plain .good) s
    | .bad  => done (Result.plain .bad) s

/-- R95 `EXTRACT n, max`: a frame that is not Good ends in `BAD` before anything is extracted (D46). -/
def execExtract (n max : Nat) (s : State) : Out :=
  if Config.hostBufCap < n then done (Result.plain .usageError) s
  else withHostIn n s fun f =>
    match verifyFrame f with
    | .bad  => done (Result.plain .bad) s
    | .good => withExtracted (extractPayload f max) fun q d =>
        done { Result.withValue .ok d.length with seq := q } (s.putOut d)

end Sys2Proof.Machine
end

