-- ==== Sys2Proof/Machine/Timeout.lean ====
section
/-! DEFINITION. The Timeout Controller (spec/42_timeout.md): `SET_DEADLINE`, `ELAPSED`. Each waits for one answer of the
clock. -/

namespace Sys2Proof.Machine

/-- R110 `set_deadline(d)`: the clock's answer plus the duration, in ticks. -/
def deadlineAfter (t d : Nat) : Nat := t + d

/-- R113 `SET_DEADLINE secs`: wait for `Now()` at `T_SET`. -/
def execSetDeadline (secs : Nat) (s : State) : Out := .next { s with ctrl := .tSet secs }

/-- R113: the clock answers `t` at `T_SET`. -/
def setDeadlineNow (secs t : Nat) (s : State) : Out :=
  done (Result.plain .ok) { s with deadline := deadlineAfter t (secondsToTicks secs s.params) }

/-- R114 `ELAPSED`: wait for `Now()` at `T_ELAPSED`. -/
def execElapsed (s : State) : Out := .next { s with ctrl := .tElapsed }

/-- R114: the clock answers `t` at `T_ELAPSED`. -/
def elapsedNow (t : Nat) (s : State) : Out :=
  done (Result.withValue .ok (if elapsed s.deadline t then 1 else 0)) s

end Sys2Proof.Machine
end

