-- ==== Sys2Proof/Machine/Framer.lean ====
section
/-! DEFINITION. The Channel Framer (spec/41_framer.md): `read_frame` as the steps between its control points (R103,
R108), and the command `READ_FRAME` (R107). -/

namespace Sys2Proof.Machine

/-- Where the framer stands after an answer: it waits for the clock or for the channel, or it returns an outcome to its
caller. -/
inductive FramerStep
  | waitNow (phase : Phase) (s : State)
  | waitRead (phase : Phase) (s : State)
  | returns (o : FramerOutcome) (s : State)
  deriving DecidableEq, Repr

/-- R103: `read_frame` starts: `RX_LEN <- 0`, then the hunt. -/
def startFramer (caller : Caller) (dl : Nat) (s : State) : Out :=
  .next { s with rxLen := 0, ctrl := .framerT caller dl .hunt }

/-- R103: place bytes at `RX_BUF[RX_LEN..)`. -/
def State.appendRx (s : State) (ys : List Byte) : State :=
  { s with rxBuf := bufWrite s.rxBuf s.rxLen ys, rxLen := s.rxLen + ys.length }

/-- R102 item 1: the head of the body loop: return when the frame is complete, before the deadline is looked at. -/
def bodyLoop (target : Nat) (s : State) : FramerStep :=
  if s.rxLen = target then .returns (.got target) s else .waitNow (.body target) s

/-- R102, R104: the framer's target size for a declared length: `max(L, 2)`. -/
def targetOf (l : Byte) : Nat := max l.toNat 2

/-- R103: the clock answers `t` at `F_HUNT_T`, `F_LEN_T` or `F_BODY_T`: the deadline first, then (in the body loop) the
buffer's capacity, then the read. -/
def framerNow (dl : Nat) (phase : Phase) (t : Nat) (s : State) : FramerStep :=
  if elapsed dl t then .returns .timeout s
  else match phase with
    | .hunt        => .waitRead .hunt s
    | .length      => .waitRead .length s
    | .body target => if s.rxLen = Config.frameBufCap then .returns .overflow s else .waitRead (.body target) s

/-- R100, R103: `ChanRead` answers bytes in the hunt. A start marker becomes `RX_BUF[0]`; anything else is discarded. -/
def huntRead (ys : List Byte) (s : State) : FramerStep :=
  match ys with
  | [b] => if b = Config.startMarker then .waitNow .length (s.appendRx [b]) else .waitNow .hunt s
  | _   => .waitNow .hunt s

/-- R101, R103: `ChanRead` answers bytes where the length byte is due. The first byte is the length, whatever it is. -/
def lengthRead (ys : List Byte) (s : State) : FramerStep :=
  match ys with
  | [b] => bodyLoop (targetOf b) (s.appendRx [b])
  | _   => .waitNow .length s

/-- R103: `ChanRead` answers at `F_HUNT_R`, `F_LEN_R` or `F_BODY_R`. -/
def framerRead (phase : Phase) (r : ReadAnswer) (s : State) : FramerStep :=
  match r with
  | .error c  => .returns (.channelError c) s
  | .bytes ys =>
    match phase with
    | .hunt        => huntRead ys s
    | .length      => lengthRead ys s
    | .body target => bodyLoop target (s.appendRx ys)

/-- R107 `READ_FRAME secs`: wait for the `Now()` that sets the deadline, at `F_CMD_T`. -/
def execReadFrame (secs : Nat) (s : State) : Out :=
  whenConnected s (.next { s with ctrl := .fCmdT secs })

/-- R107: the clock answers `t` at `F_CMD_T`. -/
def readFrameNow (secs t : Nat) (s : State) : Out :=
  let dl := deadlineAfter t (secondsToTicks secs s.params)
  startFramer .readFrame dl { s with deadline := dl }

/-- R107: the framer returns to `READ_FRAME`. -/
def readFrameOutcome (o : FramerOutcome) (s : State) : Out :=
  match o with
  | .timeout        => done (Result.plain .frTimeout) s
  | .overflow       => done (Result.plain .frOverflow) s
  | .got n          => done (Result.withValue .frGot n) s
  | .channelError c => done (Result.withCode .frChannelError c) s

end Sys2Proof.Machine
end

