-- ==== Sys2Proof/Machine/Receiver.lean ====
section
/-! DEFINITION. The Receiver Engine (spec/44_receiver.md): the command `RECEIVE`, as the steps between its control points
(R134, R146). -/

namespace Sys2Proof.Machine

/-- R134, R140: the head of the retry loop, for attempt number `n`: wait for the `Now()` that sets the deadline, or give
up when the attempts are exhausted. -/
def receiveAttempt (maxSize maxAttempts expected n : Nat) (s : State) : Out :=
  if n ≤ maxAttempts then
    .next { s with attempt := BitVec.ofNat 8 n, ctrl := .rDl maxSize maxAttempts expected }
  else done (Result.plain .giveUp) s

/-- R134: `continue`: the next attempt. -/
def receiveRetry (maxSize maxAttempts expected : Nat) (s : State) : Out :=
  receiveAttempt maxSize maxAttempts expected (s.attempt.toNat + 1) s

/-- R133, R134 `RECEIVE max, attempts`. -/
def execReceive (max attempts : Nat) (s : State) : Out :=
  whenConnected s (receiveAttempt max attempts (expectedSeq s.rxLast) 1 s)

/-- R134, R135: the clock answers `t` at `R_DL`: the deadline runs from the start of the attempt. -/
def receiveNow (maxSize maxAttempts expected t : Nat) (s : State) : Out :=
  let dl := deadlineAfter t (tRecv s.params)
  startFramer (.receive maxSize maxAttempts expected) dl { s with deadline := dl }

/-- R136, R137, R138: what is written before the acknowledgment: `RX_LAST`, on a new block only. -/
def State.accept (s : State) (path : AckPath) (field : Byte) : State :=
  { s with
    rxLast := match path with
      | .newBlock      => field
      | .duplicate     => s.rxLast
      | .outOfSequence => s.rxLast }

/-- R136, R137, R138: the echoed value: the sequence field of an accepted frame, or `u8(RX_LAST)` (255 when `RX_LAST` is
−1, 90_conflicts.md C4). -/
def echoOf (path : AckPath) (field rxLast : Byte) : Byte :=
  match path with
  | .newBlock      => field
  | .duplicate     => field
  | .outOfSequence => u8 (sint8 rxLast)

/-- R134, R139 `send_ack`: build the acknowledgment and offer it to the channel, at `R_ACK`. -/
def sendAck (maxSize maxAttempts expected : Nat) (path : AckPath) (field : Byte) (d : List Byte) (s : State) : Out :=
  withBuilt (buildAckFrame (echoOf path field s.rxLast)) s fun s' =>
    .next { s' with ctrl := .rAck maxSize maxAttempts expected path field d }

/-- R134: a Good frame with sequence field `field` and truncated payload `d`. -/
def receiveFrame (maxSize maxAttempts expected : Nat) (field : Byte) (d : List Byte) (s : State) : Out :=
  let path := classify field expected s.rxLast
  sendAck maxSize maxAttempts expected path field d (s.accept path field)

/-- R134, R135: the framer returns to `RECEIVE`. A frame that is not Good is counted and not acknowledged. -/
def receiveOutcome (maxSize maxAttempts expected : Nat) (o : FramerOutcome) (s : State) : Out :=
  match o with
  | .channelError c => done (Result.withCode .transportFailure c) s
  | .timeout        => receiveRetry maxSize maxAttempts expected { s with counters := s.counters.countTimeout }
  | .overflow       => receiveRetry maxSize maxAttempts expected { s with counters := s.counters.countTimeout }
  | .got n          => withRxFrame n s fun f =>
      match verifyFrame f with
      | .bad  => receiveRetry maxSize maxAttempts expected { s with counters := s.counters.countBadRx }
      | .good => withExtracted (extractPayload f maxSize) fun q d =>
          receiveFrame maxSize maxAttempts expected q d { s with counters := s.counters.countGoodRx }

/-- R136, R137: return the data to the host; the command ends. -/
def deliver (d : List Byte) (s : State) : Out := done (Result.withValue .ok d.length) (s.putOut d)

/-- R134, R139: `ChanWrite` answers `k` at `R_ACK`. A short or failed write is a transport failure, and what was written
before it stands (D11). -/
def ackWrote (maxSize maxAttempts expected : Nat) (path : AckPath) (d : List Byte) (k : Int) (s : State) : Out :=
  if k < (s.txLen : Int) then done (Result.withCode .transportFailure k) s
  else
    let s' := { s with counters := s.counters.countAckSent }
    match path with
    | .newBlock      => deliver d s'
    | .duplicate     => deliver d s'
    | .outOfSequence => receiveRetry maxSize maxAttempts expected s'

end Sys2Proof.Machine
end

