-- ==== Sys2Proof/Machine/Sender.lean ====
section
/-! DEFINITION. The Sender Engine (spec/43_sender.md): the command `SEND`, as the steps between its control points
(R118, R129). -/

namespace Sys2Proof.Machine

/-- R118, R124: the head of the retry loop, for attempt number `n`: build the data frame anew from `HOST_IN` and
`TX_SEQ` (R119) and offer it to the channel, or give up when the attempts are exhausted. -/
def sendAttempt (len maxAttempts n : Nat) (s : State) : Out :=
  if n ≤ maxAttempts then
    withHostIn len s fun p =>
      withBuilt (buildDataFrame p (seqByte s.txSeq)) { s with attempt := BitVec.ofNat 8 n } fun s' =>
        .next { s' with ctrl := .sWrite len maxAttempts }
  else done (Result.plain .giveUp) s

/-- R118: `continue`: the next attempt. -/
def sendRetry (len maxAttempts : Nat) (s : State) : Out :=
  sendAttempt len maxAttempts (s.attempt.toNat + 1) s

/-- R117, R118 `SEND len, attempts`. -/
def execSend (len attempts : Nat) (s : State) : Out :=
  if s.connected = false ∨ Config.maxPayload < len then done (Result.plain .usageError) s
  else sendAttempt len attempts 1 s

/-- R118, R120: `ChanWrite` answers `k` at `S_WRITE`. Anything short of the whole frame is a transport failure. -/
def sendWrote (len maxAttempts : Nat) (k : Int) (s : State) : Out :=
  if k < (s.txLen : Int) then done (Result.withCode .transportFailure k) s
  else .next { s with counters := s.counters.countFrameSent, ctrl := .sDl len maxAttempts }

/-- R118, R121: the clock answers `t` at `S_DL`: the deadline runs from after the write. -/
def sendNow (len maxAttempts t : Nat) (s : State) : Out :=
  let dl := deadlineAfter t (tSend s.params)
  startFramer (.send len maxAttempts) dl { s with deadline := dl }

/-- R118, R123: a valid response with sequence field `field`: success, or an implicit negative acknowledgment. -/
def sendResponse (len maxAttempts : Nat) (field : Byte) (s : State) : Out :=
  let s' := { s with counters := s.counters.countAckRx }
  if isPositiveAck field s.txSeq then done (Result.plain .ok) { s' with txSeq := nextTxSeq s.txSeq }
  else sendRetry len maxAttempts s'

/-- R118, R122: the framer returns to `SEND`. -/
def sendOutcome (len maxAttempts : Nat) (o : FramerOutcome) (s : State) : Out :=
  match o with
  | .channelError c => done (Result.withCode .transportFailure c) s
  | .timeout        => sendRetry len maxAttempts { s with counters := s.counters.countTimeout }
  | .overflow       => sendRetry len maxAttempts { s with counters := s.counters.countTimeout }
  | .got n          => withRxFrame n s fun f =>
      match verifyFrame f with
      | .bad  => sendRetry len maxAttempts { s with counters := s.counters.countBadRx }
      | .good => sendResponse len maxAttempts (byteAt f 2) s

end Sys2Proof.Machine
end

