-- ==== Sys2Proof/Machine/Resume.lean ====
section
/-! DEFINITION. Going on with a running command (spec/10_state.md rule R38, spec/20_memory.md rule R49): one answer of
the environment, and the block's computation up to the next control point. -/

namespace Sys2Proof.Machine

/-- R107, R118, R134: the framer's outcome goes to its caller. -/
def framerReturn (caller : Caller) (o : FramerOutcome) (s : State) : Out :=
  match caller with
  | .readFrame                               => readFrameOutcome o s
  | .send len maxAttempts                    => sendOutcome len maxAttempts o s
  | .receive maxSize maxAttempts expected    => receiveOutcome maxSize maxAttempts expected o s

/-- R108: the framer goes on waiting, or returns. -/
def framerGoesOn (caller : Caller) (dl : Nat) : FramerStep → Out
  | .waitNow phase s  => .next { s with ctrl := .framerT caller dl phase }
  | .waitRead phase s => .next { s with ctrl := .framerR caller dl phase }
  | .returns o s      => framerReturn caller o s

/-- The computation after an answer, by control point. An answer of another primitive than the one called is outside the
contract (R14) and never given. -/
def afterAnswer (a : Answer) (s : State) : Out :=
  match s.ctrl, a with
  | .lOpen,                       .chanOpen r  => connectOpened r s
  | .lClose,                      .chanClose r => disconnectClosed r s
  | .tSet secs,                   .now t       => setDeadlineNow secs t s
  | .tElapsed,                    .now t       => elapsedNow t s
  | .fCmdT secs,                  .now t       => readFrameNow secs t s
  | .framerT caller dl phase,     .now t       => framerGoesOn caller dl (framerNow dl phase t s)
  | .framerR caller dl phase,     .chanRead r  => framerGoesOn caller dl (framerRead phase r s)
  | .sWrite len maxAttempts,      .chanWrite k => sendWrote len maxAttempts k s
  | .sDl len maxAttempts,         .now t       => sendNow len maxAttempts t s
  | .rDl maxSize maxAttempts expected, .now t  => receiveNow maxSize maxAttempts expected t s
  | .rAck maxSize maxAttempts expected path _ d, .chanWrite k => ackWrote maxSize maxAttempts expected path d k s
  | _, _ => .refused .answerOutsideContract

/-- R14, R49: the environment answers the call in progress: the exchange takes place, and the block computes up to its
next control point. -/
def resume (a : Answer) (s : State) : Out :=
  match s.waiting with
  | .nothing  => .refused .answerOutsideContract
  | .broken f => .fault f
  | .call c   => if c.admits s.lastNow a then afterAnswer a (s.exchange c a) else .refused .answerOutsideContract

/-- R77: an illegal word ends at once with `ILLEGAL_COMMAND` and has no other effect. Reached only while `CTRL = IDLE` (log
entry 20). -/
def illegalCommand (s : State) : Out := done (Result.plain .illegalCommand) s

end Sys2Proof.Machine
end

