-- ==== Sys2Proof/Machine/Dispatch.lean ====
section
/-! DEFINITION. One arm per command: what issuing it does, up to its first control point or its `finish` (spec/30_encoding.md
rule R72, spec/45_lifecycle.md rule R153). -/

namespace Sys2Proof.Machine

def exec (i : Instr) (s : State) : Host.Outcome State Fault Refusal :=
  match i with
  | .connect => Sys2Proof.Machine.execConnect s
  | .disconnect => Sys2Proof.Machine.execDisconnect s
  | .send len attempts => Sys2Proof.Machine.execSend len attempts s
  | .receive max attempts => Sys2Proof.Machine.execReceive max attempts s
  | .optimalBlockSize => Sys2Proof.Machine.execOptimalBlockSize s
  | .checksum seq tlen => Sys2Proof.Machine.execChecksum seq tlen s
  | .buildData len seq => Sys2Proof.Machine.execBuildData len seq s
  | .buildAck seq => Sys2Proof.Machine.execBuildAck seq s
  | .verify n => Sys2Proof.Machine.execVerify n s
  | .extract n max => Sys2Proof.Machine.execExtract n max s
  | .readFrame secs => Sys2Proof.Machine.execReadFrame secs s
  | .setDeadline secs => Sys2Proof.Machine.execSetDeadline secs s
  | .elapsed => Sys2Proof.Machine.execElapsed s

end Sys2Proof.Machine
end

