-- ==== Sys2Proof/Machine/Interface.lean ====
section
/-! DEFINITION. The command interface (spec/30_encoding.md rule R72): what one item from outside does, and what the host
does for a line of an assembly program (R79). -/

namespace Sys2Proof.Machine

/-- R72, R77: the host issues a command word. While the block is idle, decoding comes before every precondition; a second
command while one runs is refused (D38). DESIGN CHOICE (log entry 20): the rules leave open what an ILLEGAL word does while a
command runs; it is refused as a legal one is, without being decoded. Safe. -/
def issue (w : Word) (s : State) : Out :=
  if s.ctrl = .idle then
    match decode w with
    | .ok i    => exec i s
    | .error _ => illegalCommand s
  else .refused .commandWhileBusy

/-- R16, R72: one item from outside: the host writes a byte or issues a command, or the environment answers a call. -/
def accept (x : Input) (s : State) : Out :=
  match x with
  | .hostWrite i b => hostWrite i b s
  | .command w     => issue w s
  | .answer a      => resume a s

/-- The next item from outside is taken in. With nothing to take in, nothing changes: an idle block waits for the host, a
running command for the environment (R15, R176). -/
def acceptNext (s : State) : Out :=
  match s.inputs with
  | []      => .next s
  | x :: xs => accept x { s with inputs := xs }

/-- The state in which the host issues the command word `w` as the very next thing. A word is taken only while
`CTRL = IDLE` and `REFUSED = 0`, so both are set. -/
def State.withCommand (s : State) (w : Word) : State :=
  { s with ctrl := .idle, refused := false, inputs := .command w :: s.inputs }

/-- R79: what the host does for one line of an assembly program: it issues the line's command word, or, for `.in`, it
writes the listed bytes to `HOST_IN[0..k)`, in order. -/
def lineInputs (l : AsmLine) : List Input :=
  match l with
  | .hostInput bytes  => bytes.zipIdx.map fun x => .hostWrite (Fin.ofNat Config.hostBufCap x.2) x.1
  | .command i        => [.command (encode i)]
  | .sendDefault n    => [.command (encode (.send n Config.defaultMaxAttempts))]
  | .receiveDefault n => [.command (encode (.receive n Config.defaultMaxAttempts))]

end Sys2Proof.Machine
end

