-- ==== Sys2Proof/Machine/Step.lean ====
section
/-! DEFINITION. One step: the next item from outside is taken in (spec/00_scope.md rule R16, spec/20_memory.md rule R49). -/

namespace Sys2Proof.Machine

/-- One step. An instance whose `REFUSED` is set takes none (R41). -/
def step (s : State) : Host.Outcome State Fault Refusal :=
  if s.refused then .refused .alreadyRefused else acceptNext s

/-- The state in which the next thing taken in is the command word whose `nbits` bits are `w` (a word has 32 bits). -/
def State.withFetchWord (s : State) (nbits w : Nat) : State :=
  s.withCommand (BitVec.ofNat 32 (w % 2 ^ nbits))

end Sys2Proof.Machine
end

