-- ==== Sys2Proof/Machine/Assembler.lean ====
section
/-! DEFINITION. The assembly syntax (spec/30_encoding.md rules R79, R80): the text of a line, the line a text stands for,
and what the host does for a program. -/

namespace Sys2Proof.Machine

/-! ### From text to lines -/

/-- What separates words. -/
def isBlank (c : Char) : Bool := c = ' ' || c = '\t'

/-- A text without the blanks at its two ends. -/
def trim (cs : List Char) : List Char := ((cs.dropWhile isBlank).reverse.dropWhile isBlank).reverse

/-- R79: a `;` starts a comment. -/
def withoutComment (cs : List Char) : List Char := cs.takeWhile fun c => !decide (c = ';')

/-- The parts of a text between its commas. -/
def commaParts : List Char → List (List Char)
  | [] => [[]]
  | c :: cs =>
    if c = ',' then [] :: commaParts cs
    else match commaParts cs with
      | p :: ps => (c :: p) :: ps
      | []      => [[c]]

/-- The value of a digit, in a base up to 16. -/
def digitValue (base : Nat) (c : Char) : Option Nat :=
  let v := if '0' ≤ c ∧ c ≤ '9' then c.toNat - '0'.toNat
    else if 'a' ≤ c ∧ c ≤ 'f' then c.toNat - 'a'.toNat + 10
    else if 'A' ≤ c ∧ c ≤ 'F' then c.toNat - 'A'.toNat + 10
    else 16
  if v < base then some v else none

/-- The number that some digits go on to, after the number `acc`. -/
def digitsFrom (base acc : Nat) : List Char → Option Nat
  | []      => some acc
  | c :: cs => (digitValue base c).bind fun v => digitsFrom base (acc * base + v) cs

/-- R79: a value is decimal, or hexadecimal with `0x`; R73: it is an unsigned byte. -/
def parseByte (cs : List Char) : Option Nat :=
  let v := match cs with
    | []               => none
    | '0' :: 'x' :: [] => none
    | '0' :: 'x' :: ds => digitsFrom 16 0 ds
    | ds               => digitsFrom 10 0 ds
  v.filter fun n => decide (n < 256)

/-- R79: an operand, `name=value`. -/
def parseOperand (cs : List Char) : Option (String × Nat) :=
  let name := cs.takeWhile fun c => !decide (c = '=')
  (parseByte (cs.drop (name.length + 1))).map fun v => (String.ofList name, v)

/-- R79, R80: the line with a given mnemonic and given operands, in the order the rule lists them. -/
def commandLine (mnemonic : String) (operands : List (String × Nat)) : Option AsmLine :=
  match mnemonic, operands with
  | "CONNECT",            []                          => some (.command .connect)
  | "DISCONNECT",         []                          => some (.command .disconnect)
  | "SEND",               [("len", l), ("attempts", a)] => some (.command (.send l a))
  | "SEND",               [("len", l)]                => some (.sendDefault l)
  | "RECEIVE",            [("max", m), ("attempts", a)] => some (.command (.receive m a))
  | "RECEIVE",            [("max", m)]                => some (.receiveDefault m)
  | "OPTIMAL_BLOCK_SIZE", []                          => some (.command .optimalBlockSize)
  | "CHECKSUM",           [("seq", s), ("tlen", t)]   => some (.command (.checksum s t))
  | "BUILD_DATA",         [("len", l), ("seq", s)]    => some (.command (.buildData l s))
  | "BUILD_ACK",          [("seq", s)]                => some (.command (.buildAck s))
  | "VERIFY",             [("n", n)]                  => some (.command (.verify n))
  | "EXTRACT",            [("n", n), ("max", m)]      => some (.command (.extract n m))
  | "READ_FRAME",         [("secs", t)]               => some (.command (.readFrame t))
  | "SET_DEADLINE",       [("secs", t)]               => some (.command (.setDeadline t))
  | "ELAPSED",            []                          => some (.command .elapsed)
  | _,                    _                           => none

/-- R79: the `.in` directive lists at most as many bytes as `HOST_IN` has. -/
def hostLine (bytes : List Nat) : Option AsmLine :=
  if bytes.length ≤ Config.hostBufCap then some (.hostInput (bytes.map (BitVec.ofNat 8))) else none

/-- The comma-separated parts of what follows the first word; none where nothing follows. -/
def lineParts (rest : List Char) : List (List Char) := if rest = [] then [] else (commaParts rest).map trim

/-- R79: the line a text stands for; none where it stands for none. A text with nothing but blanks and a comment is an empty
line: no `AsmLine`, and no error. -/
def parseLine (text : List Char) : Option (Option AsmLine) :=
  let cs := trim (withoutComment text)
  let first := cs.takeWhile fun c => !isBlank c
  let parts := lineParts (trim (cs.drop first.length))
  if first = [] then some none
  else if String.ofList first = ".in" then ((parts.mapM parseByte).bind hostLine).map some
  else ((parts.mapM parseOperand).bind (commandLine (String.ofList first))).map some

/-- R79: what the host does for a program, line by line; none where a line stands for nothing. -/
def programInputs (program : List (List Char)) : Option (List Input) :=
  (program.mapM parseLine).map fun ls => ls.flatMap fun l => match l with
    | some x => lineInputs x
    | none   => []

/-! ### From commands to text -/

/-- R79: the text of an operand, its value in decimal. -/
def operandText (o : String × Nat) : List Char := o.1.toList ++ '=' :: Nat.toDigits 10 o.2

/-- R79: the text of a command line. -/
def commandText (i : Instr) : List Char :=
  i.mnemonic.toList ++
    match i.operands with
    | []      => []
    | o :: os => ' ' :: operandText o ++ os.flatMap fun x => ',' :: ' ' :: operandText x

end Sys2Proof.Machine
end

