-- ==== Sys2Proof/Safety.lean ====
section
/-! DEFINITION. What claims are stated with: several steps, what a delivery of a frame by the channel is, and the
invariant of the block. -/

namespace Sys2Proof.Machine

/-- `k` steps, stopping at the first fault or refusal. -/
def stepN : Nat → State → Host.Outcome State Fault Refusal
  | 0, s => .next s
  | k + 1, s =>
    match step s with
    | .next s'   => stepN k s'
    | .fault f   => .fault f
    | .refused r => .refused r

/-! ### Where a step takes place -/

/-- R72: the block is idle and the next item from outside is the word of `i`. -/
def State.takesIn (s : State) (i : Instr) : Prop := s.ctrl = .idle ∧ ∃ rest, s.inputs = .command (encode i) :: rest

/-- R108: the framer runs for caller `c`, in any of its loops. -/
def State.inFramerOf (s : State) (c : Caller) : Prop := ∃ dl ph, s.ctrl = .framerT c dl ph ∨ s.ctrl = .framerR c dl ph

/-- R12: in the step from `s` to `t` a command ends: one that was running, or one whose word was taken in. -/
def commandEnds (s t : State) : Prop := t.ctrl = .idle ∧ (s.ctrl ≠ .idle ∨ ∃ w rest, s.inputs = .command w :: rest)

/-! ### How a channel delivers a frame to the framer -/

/-- One poll of the framer: what the clock answers, and what `ChanRead` then answers. -/
structure Poll where
  time  : Nat
  bytes : List Byte
  deriving DecidableEq, Repr

/-- The two answers of a poll. -/
def Poll.inputs (p : Poll) : List Input := [.answer (.now p.time), .answer (.chanRead (.bytes p.bytes))]

/-- The answers of a run of polls. -/
def pollInputs (ps : List Poll) : List Input := ps.flatMap Poll.inputs

/-- A way the channel delivers the frame `START_MARKER :: l :: body`: noise first, then the start marker; then, after polls
that the channel answers with no byte (R101), the length byte; then the body, in pieces of any size. -/
structure Delivery where
  noise   : List Poll
  markAt  : Nat
  /-- the times of the empty answers between the start marker and the length byte -/
  lenWait : List Nat
  lenAt   : Nat
  pieces  : List Poll
  deriving DecidableEq, Repr

/-- The polls of a delivery of a frame with length byte `l`. -/
def Delivery.polls (d : Delivery) (l : Byte) : List Poll :=
  d.noise ++ ⟨d.markAt, [Config.startMarker]⟩ :: (d.lenWait.map (⟨·, []⟩) ++ ⟨d.lenAt, [l]⟩ :: d.pieces)

/-- The delivery brings exactly the frame `START_MARKER :: l :: body` before the deadline `dl`, on a clock that does not run
backwards from `start`: every noise poll brings at most one byte, not a start marker; the pieces make up the body, and the
last one is not empty. -/
def Delivery.brings (d : Delivery) (start dl : Nat) (l : Byte) (body : List Byte) : Prop :=
  (∀ p ∈ d.noise, p.bytes.length ≤ 1 ∧ p.bytes ≠ [Config.startMarker]) ∧
  d.pieces.flatMap Poll.bytes = body ∧
  (∀ p ∈ d.pieces.getLast?, p.bytes ≠ []) ∧
  (start :: (d.polls l).map Poll.time).Pairwise (· ≤ ·) ∧
  (∀ p ∈ d.polls l, p.time < dl)

/-- The channel delivers the frame of payload `q` with sequence byte `f`. -/
def Delivery.bringsFrame (d : Delivery) (start dl : Nat) (q : List Byte) (f : Byte) : Prop :=
  d.brings start dl (BitVec.ofNat 8 (q.length + Config.minFrame)) ((frameOf q f).drop 2)

/-- The answers of a delivery of the frame of payload `q`. -/
def Delivery.inputs (d : Delivery) (q : List Byte) : List Input :=
  pollInputs (d.polls (BitVec.ofNat 8 (q.length + Config.minFrame)))

/-- How many steps a delivery takes: two for each poll. -/
def Delivery.steps (d : Delivery) : Nat := 2 * (d.noise.length + 1 + d.lenWait.length + 1 + d.pieces.length)

/-- An exchange of the framer: a clock reading, or a read of the channel with handle `h`. -/
def Exchange.isPoll (h : Handle) (e : Exchange) : Prop := e.call = .now ∨ ∃ m, e.call = .chanRead h m

/-- An exchange that offers bytes to the channel. -/
def Exchange.isWrite (e : Exchange) : Bool :=
  match e.call with
  | .chanWrite _ _ => true
  | .chanOpen _    => false
  | .chanClose _   => false
  | .chanRead _ _  => false
  | .now           => false

/-- One attempt of a `SEND` to which nothing comes back: the clock answers that set the deadline and that reach it, and the
polls between, which bring noise at most. -/
structure LostAttempt where
  setAt : Nat
  noise : List Poll
  endAt : Nat
  deriving DecidableEq, Repr

/-- The answers of such an attempt, for a frame of `n` bytes that is written in full. -/
def LostAttempt.inputs (x : LostAttempt) (n : Nat) : List Input :=
  .answer (.chanWrite (n : Int)) :: .answer (.now x.setAt) :: (pollInputs x.noise ++ [.answer (.now x.endAt)])

/-- The answers of the clock in such an attempt. -/
def LostAttempt.times (x : LostAttempt) : List Nat := x.setAt :: (x.noise.map Poll.time ++ [x.endAt])

/-- Nothing but noise comes before the deadline, `wait` ticks after it is set, and then the deadline is reached. -/
def LostAttempt.lapses (x : LostAttempt) (wait : Nat) : Prop :=
  (∀ p ∈ x.noise, p.bytes.length ≤ 1 ∧ p.bytes ≠ [Config.startMarker] ∧ p.time < x.setAt + wait) ∧
  x.setAt + wait ≤ x.endAt

/-! ### The invariant -/

/-- Every index of a buffer is below its capacity (R44, R45). -/
abbrev Memory.within (cap : Nat) (m : Memory) : Prop := ∀ c ∈ m, c.1 < cap

/-- The first `n` bytes of a buffer are written (R43, R45). -/
abbrev Memory.holds (m : Memory) (n : Nat) : Prop := (bufRead m 0 n).isSome = true

/-- R23: the legal values of `RX_LAST`: −1 and 0..15. -/
abbrev rxLegal (b : Byte) : Prop := sint8 b = Config.rxNone ∨ (0 ≤ sint8 b ∧ sint8 b < Config.seqMod)

/-- R118, R119: at every control point of a `SEND` that has built its frame, the operands passed their checks, the
attempt is one of those allowed, and `TX_BUF[0..TX_LEN)` is the data frame of `HOST_IN[0..L)` and `TX_SEQ`. -/
def State.sendOk (s : State) (len maxAttempts : Nat) : Prop :=
  len ≤ Config.maxPayload ∧ 1 ≤ s.attempt.toNat ∧ s.attempt.toNat ≤ maxAttempts ∧ maxAttempts ≤ 255 ∧
  s.txLen = len + Config.minFrame ∧
  ∃ p, bufRead s.hostIn 0 len = some p ∧ bufRead s.txBuf 0 s.txLen = some (frameOf p (seqByte s.txSeq))

/-- R132, R134: at every control point of a `RECEIVE` before its acknowledgment. -/
def State.receiveOk (s : State) (maxSize maxAttempts expected : Nat) : Prop :=
  maxSize ≤ 255 ∧ 1 ≤ s.attempt.toNat ∧ s.attempt.toNat ≤ maxAttempts ∧ maxAttempts ≤ 255 ∧ expected = expectedSeq s.rxLast

/-- The caller of a running framer keeps its own condition. -/
def State.callerOk (s : State) : Caller → Prop
  | .readFrame      => True
  | .send l m       => s.sendOk l m
  | .receive ms m e => s.receiveOk ms m e

/-- R103, R104: how much of the frame is in `RX_BUF` in each loop of the framer. -/
def State.phaseOk (s : State) : Phase → Prop
  | .hunt        => s.rxLen = 0
  | .length      => s.rxLen = 1 ∧ s.rxBuf.read 0 = some Config.startMarker
  | .body target => s.rxBuf.read 0 = some Config.startMarker ∧
      (∃ l, s.rxBuf.read 1 = some l ∧ target = targetOf l) ∧ 2 ≤ s.rxLen ∧ s.rxLen < target

/-- R136 to R139: what holds while an acknowledgment is being written, by path. -/
def State.ackOk (s : State) (expected : Nat) (path : AckPath) (field : Byte) : Prop :=
  match path with
  | .newBlock      => field.toNat = expected ∧ s.rxLast = field
  | .duplicate     => s.rxLast = field ∧ expected = expectedSeq s.rxLast
  | .outOfSequence => field.toNat ≠ expected ∧ (field.toNat : Int) ≠ sint8 s.rxLast ∧ expected = expectedSeq s.rxLast

/-- What holds at each control point. -/
def State.ctrlOk (s : State) : Prop :=
  match s.ctrl with
  | .idle                 => True
  | .lOpen                => s.connected = false
  | .lClose               => s.connected = true
  | .tSet secs            => secs ≤ 255
  | .tElapsed             => True
  | .fCmdT secs           => s.connected = true ∧ secs ≤ 255
  | .framerT c dl phase   => s.connected = true ∧ dl = s.deadline ∧ s.callerOk c ∧ s.phaseOk phase
  | .framerR c dl phase   => s.connected = true ∧ dl = s.deadline ∧ s.callerOk c ∧ s.phaseOk phase ∧
      s.rxLen < Config.frameBufCap
  | .sWrite l m           => s.connected = true ∧ s.sendOk l m
  | .sDl l m              => s.connected = true ∧ s.sendOk l m
  | .rDl ms m e           => s.connected = true ∧ s.receiveOk ms m e
  | .rAck ms m e path f d => s.connected = true ∧ ms ≤ 255 ∧ 1 ≤ s.attempt.toNat ∧ s.attempt.toNat ≤ m ∧ m ≤ 255 ∧
      e < Config.seqMod ∧ d.length ≤ ms ∧ d.length ≤ Config.maxPayload ∧ s.txLen = Config.minFrame ∧
      bufRead s.txBuf 0 Config.minFrame = some (frameOf [] (echoOf path f s.rxLast)) ∧ s.ackOk e path f

/-- What holds whatever the control state: the buffers keep their canonical form and stay within their capacities, the
bytes that rules read are written, `CONNECTED = 1` exactly when there is a handle (R32), and `RX_LAST` is legal (R23). -/
structure State.Sound (s : State) : Prop where
  notRefused : s.refused = false
  txWf       : s.txBuf.wf
  rxWf       : s.rxBuf.wf
  inWf       : s.hostIn.wf
  outWf      : s.hostOut.wf
  txWithin   : s.txBuf.within Config.frameBufCap
  rxWithin   : s.rxBuf.within Config.frameBufCap
  inWithin   : s.hostIn.within Config.hostBufCap
  outWithin  : s.hostOut.within Config.maxPayload
  txHolds    : s.txLen ≤ Config.frameBufCap ∧ s.txBuf.holds s.txLen
  rxHolds    : s.rxLen ≤ Config.frameBufCap ∧ s.rxBuf.holds s.rxLen
  outHolds   : s.outLen ≤ Config.maxPayload ∧ s.hostOut.holds s.outLen
  session    : s.connected = s.chanHandle.isSome
  rxLast     : rxLegal s.rxLast

/-- The invariant of the block: the state is sound, and each control point finds what its command needs. -/
structure State.Inv (s : State) : Prop extends State.Sound s where
  control : s.ctrlOk

/-- R179: two peers are in step when the receiver expects the sequence number the sender sends next. -/
def inStep (sender receiver : State) : Prop := expectedSeq receiver.rxLast = sender.txSeq.toNat

end Sys2Proof.Machine
end

