-- ==== Sys2Proof/Certificates/Slice0/Obligations.lean ====
section
/-! DEFINITION. The statements for the provers. Each cites the rule of spec/ it formalises. Where a statement speaks of
the model's own fields (`inputs`, `trace`, `lastNow`, `params`, `draws`: log entries 1 to 5), it holds for every value of
them. `State.finish` is the end of a command, as FinishWritesResultAndReturnsToIdle states it. -/

open Sys2Proof Sys2Proof.Machine

/-! ### The command word -/

/-- R76, R81: the words of the spec's encoding examples, and of the remaining rows, decode to their commands. -/
def Obligations.SpecWordsDecodeToTheirCommands : Prop :=
  decode 0x00000001 = .ok .connect ∧
  decode 0x00000002 = .ok .disconnect ∧
  decode 0x00050303 = .ok (.send 3 5) ∧
  decode 0x00FFC803 = .ok (.send 200 255) ∧
  decode 0x0005C804 = .ok (.receive 200 5) ∧
  decode 0x00000005 = .ok .optimalBlockSize ∧
  decode 0x00080010 = .ok (.checksum 0 8) ∧
  decode 0x00000311 = .ok (.buildData 3 0) ∧
  decode 0x000F0012 = .ok (.buildAck 15) ∧
  decode 0x00000813 = .ok (.verify 8) ∧
  decode 0x00020814 = .ok (.extract 8 2) ∧
  decode 0x00000415 = .ok (.readFrame 4) ∧
  decode 0x00000416 = .ok (.setDeadline 4) ∧
  decode 0x00000017 = .ok .elapsed

/-- R73, R76, R78: no bit of an operand is dropped: the word of every well-formed command decodes to that command. -/
def Obligations.EncodedCommandsDecodeBack : Prop :=
  ∀ i : Instr, i.wellFormed = true → decode (encode i) = .ok i

/-- R73, R76: every legal word is the word of one command, and that command's operands are bytes. -/
def Obligations.LegalWordsEncodeBack : Prop :=
  ∀ (w : Word) (i : Instr), decode w = .ok i → encode i = w ∧ i.wellFormed = true

/-- R77: the illegal words are those with an unassigned `OP`, a nonzero `Z`, or a nonzero must-be-zero operand. -/
def Obligations.IllegalWordsAreThoseOfTheRule : Prop :=
  ∀ w : Word, (∃ e, decode w = .error e) ↔
    (opField w = 0x00 ∨ (0x06 ≤ opField w ∧ opField w ≤ 0x0F) ∨ 0x18 ≤ opField w) ∨
    zField w ≠ 0 ∨
    (aField w ≠ 0 ∧ opField w ∈ [0x01, 0x02, 0x05, 0x12, 0x17]) ∨
    (bField w ≠ 0 ∧ opField w ∈ [0x01, 0x02, 0x05, 0x13, 0x15, 0x16, 0x17])

/-- R77: an illegal word ends at once with `ILLEGAL_COMMAND`, whether connected or not, and changes nothing else. -/
def Obligations.IllegalCommandOnlyWritesResult : Prop :=
  ∀ (s : State) (w : Word) (e : DecodeError) (rest : List Input),
    s.refused = false → s.ctrl = .idle → s.inputs = .command w :: rest → decode w = .error e →
    step s = .next (State.finish { s with inputs := rest } (Result.plain .illegalCommand))

/-- R79: the text of every well-formed command, with its operands by name and in decimal, stands for that command. -/
def Obligations.CommandTextsParseBack : Prop :=
  ∀ i : Instr, i.wellFormed = true → parseLine (commandText i) = some (some (.command i))

/-! ### The step -/

/-- R72: when the next item is a word that decodes to `i` and the block is idle, a step is `exec` of `i`, on the state
with the word taken in. -/
def Obligations.StepRunsTheDecodedCommand : Prop :=
  ∀ (s : State) (w : Word) (i : Instr) (rest : List Input),
    s.refused = false → s.ctrl = .idle → s.inputs = .command w :: rest → decode w = .ok i →
    step s = exec i { s with inputs := rest }

/-- R72, R174: a command issued, or `HOST_IN` written, while `CTRL ≠ IDLE` is refused. For a word that does not decode this is
the model's choice (log entry 20). -/
def Obligations.BusyBlockRefusesTheHost : Prop :=
  ∀ (s : State) (rest : List Input), s.refused = false → s.ctrl ≠ .idle →
    (∀ w, s.inputs = .command w :: rest → step s = .refused .commandWhileBusy) ∧
    (∀ i b, s.inputs = .hostWrite i b :: rest → step s = .refused .hostWriteWhileBusy)

/-- R35, R72: while idle, a host write sets the one byte of `HOST_IN` it names and changes nothing else. -/
def Obligations.HostWriteSetsOneByte : Prop :=
  ∀ (s : State) (i : Fin Config.hostBufCap) (b : Byte) (rest : List Input),
    s.refused = false → s.ctrl = .idle → s.inputs = .hostWrite i b :: rest →
    ∃ m, step s = .next { s with hostIn := m, inputs := rest } ∧
      ∀ j, m.read j = if j = i.val then some b else s.hostIn.read j

/-- R41: an instance whose `REFUSED` mark is set takes no step. -/
def Obligations.RefusedMarkStopsTheInstance : Prop :=
  ∀ s : State, s.refused = true → step s = .refused .alreadyRefused

/-- R12, R74: ending a command writes `RESULT` and returns `CTRL` to `IDLE`; a result has the fields its rule lists and 0 in
every other. `ATTEMPT` has no meaning from then on and holds a free value (log entry 5); nothing else changes. -/
def Obligations.FinishWritesResultAndReturnsToIdle : Prop :=
  (∀ (s : State) (r : Result), s.finish r = { s with
    result := r, ctrl := .idle, attempt := Config.idleAttempt s.draws, draws := s.draws + 1 }) ∧
  (∀ st : Status, Result.plain st = { status := st, value := 0, seq := 0, code := 0, report := Counters.zero }) ∧
  ∀ (st : Status) (c : Int), Result.withCode st c = { Result.plain st with code := c }

/-- R43, R176: the registers after power-on. -/
def Obligations.PowerOnRegisters : Prop :=
  State.reset.connected = false ∧ State.reset.txSeq = 0 ∧ sint8 State.reset.rxLast = -1 ∧
  State.reset.counters = Counters.zero ∧ State.reset.chanHandle = none ∧
  (∀ i, State.reset.txBuf.read i = none) ∧ (∀ i, State.reset.rxBuf.read i = none) ∧
  (∀ i, State.reset.hostIn.read i = none) ∧ (∀ i, State.reset.hostOut.read i = none) ∧
  State.reset.txLen = 0 ∧ State.reset.rxLen = 0 ∧ State.reset.outLen = 0 ∧ State.reset.deadline = 0 ∧
  State.reset.attempt = 0 ∧ State.reset.ctrl = .idle ∧ State.reset.result = Result.plain .ok ∧
  State.reset.refused = false

/-! ### The lifecycle -/

/-- R149: `CONNECT`. While disconnected it calls `ChanOpen` with `CONFIG`. On `Ok(h)`: connected, with the handle, and the
sequence numbers and counters reset; the buffers, their lengths, `DEADLINE` and everything else are unchanged. On `Err(c)`: `c`
is reported and every register is unchanged. While connected it is refused. -/
def Obligations.ConnectOpensOrReportsOrIsRefused : Prop :=
  (∀ (s : State) (h : Handle) (rest : List Input),
    s.refused = false → s.connected = false → s.inputs = .answer (.chanOpen (.ok h)) :: rest →
    ∃ a, exec .connect s = .next a ∧ a.waiting = .call (.chanOpen s.params.channel) ∧
      step a = .next (State.finish { s with
          connected := true, chanHandle := some h, txSeq := 0, rxLast := 0xFF, counters := Counters.zero,
          inputs := rest, trace := ⟨.chanOpen s.params.channel, .chanOpen (.ok h)⟩ :: s.trace }
          (Result.plain .ok))) ∧
  (∀ (s : State) (c : Int) (rest : List Input),
    s.refused = false → s.connected = false → s.inputs = .answer (.chanOpen (.err c)) :: rest →
    ∃ a, exec .connect s = .next a ∧ a.waiting = .call (.chanOpen s.params.channel) ∧
      step a = .next (State.finish { s with
          inputs := rest, trace := ⟨.chanOpen s.params.channel, .chanOpen (.err c)⟩ :: s.trace }
          (Result.withCode .channelCode c))) ∧
  ∀ s : State, s.connected = true → exec .connect s = .refused .connectWhileConnected

/-- R150: `DISCONNECT`. While connected it closes the handle and ends the session whatever the close answers, and reports the
six counters, or the close's code and a zero report; every other register keeps its value. While disconnected it is a usage
error with no other effect. -/
def Obligations.DisconnectEndsTheSession : Prop :=
  (∀ (s : State) (h : Handle) (r : CloseAnswer) (rest : List Input),
    s.refused = false → s.connected = true → s.chanHandle = some h →
    s.inputs = .answer (.chanClose r) :: rest →
    ∃ a, exec .disconnect s = .next a ∧ a.waiting = .call (.chanClose h) ∧
      step a = .next (State.finish { s with
          connected := false, chanHandle := none, inputs := rest,
          trace := ⟨.chanClose h, .chanClose r⟩ :: s.trace }
          (match r with
          | .ok    => { Result.plain .ok with report := s.counters }
          | .err c => Result.withCode .channelCode c))) ∧
  ∀ s : State, s.connected = false → exec .disconnect s = .next (State.finish s (Result.plain .usageError))

/-- R152: `SEND`, `RECEIVE`, `READ_FRAME` and `DISCONNECT` while disconnected end at once with `USAGE_ERROR` and no other
effect. -/
def Obligations.DisconnectedCommandsAreUsageErrors : Prop :=
  ∀ (s : State) (x y : Nat), s.connected = false →
    ∀ i ∈ [Instr.send x y, .receive x y, .readFrame x, .disconnect],
      exec i s = .next (State.finish s (Result.plain .usageError))

/-- R151: `OPTIMAL_BLOCK_SIZE` answers 70 and writes `RESULT` only, connected or not. -/
def Obligations.OptimalBlockSizeAnswersSeventy : Prop :=
  ∀ s : State, exec .optimalBlockSize s =
    .next (State.finish s { Result.plain .ok with value := 70 })

/-! ### The timeout controller -/

/-- R113: `SET_DEADLINE` leaves the clock's answer plus the duration in `DEADLINE`; only `DEADLINE` and `RESULT` change. -/
def Obligations.SetDeadlineAddsTheDuration : Prop :=
  ∀ (s : State) (secs t : Nat) (rest : List Input),
    s.refused = false → s.lastNow ≤ t → s.inputs = .answer (.now t) :: rest →
    ∃ a, exec (.setDeadline secs) s = .next a ∧ a.waiting = .call .now ∧
      step a = .next (State.finish { s with
          deadline := t + secs * s.params.ticksPerSecond, lastNow := t, inputs := rest,
          trace := ⟨.now, .now t⟩ :: s.trace }
          (Result.plain .ok))

/-- R114, R111: `ELAPSED` answers 1 when the clock has reached or passed `DEADLINE`, else 0; only `RESULT` changes. -/
def Obligations.ElapsedComparesInclusively : Prop :=
  ∀ (s : State) (t : Nat) (rest : List Input),
    s.refused = false → s.lastNow ≤ t → s.inputs = .answer (.now t) :: rest →
    ∃ a, exec .elapsed s = .next a ∧ a.waiting = .call .now ∧
      step a = .next (State.finish { s with lastNow := t, inputs := rest, trace := ⟨.now, .now t⟩ :: s.trace }
          { Result.plain .ok with value := if s.deadline ≤ t then 1 else 0 })

/-- R14, R112: no step takes an answer of the clock below an earlier one. -/
def Obligations.ClockNeverRunsBackwards : Prop :=
  ∀ s t : State, step s = .next t → s.lastNow ≤ t.lastNow

/-! ### The codec commands -/

/-- R91, R84: `CHECKSUM` with a total length in 5..205 answers the sum of sequence, length and payload, mod 251; outside that
range it is a usage error. It writes `RESULT` only. -/
def Obligations.ChecksumAnswersTheSumModulo251 : Prop :=
  ∀ (s : State) (seq tlen : Nat),
    (tlen < 5 ∨ 205 < tlen → exec (.checksum seq tlen) s = .next (State.finish s (Result.plain .usageError))) ∧
    ∀ p : List Byte, seq < 256 → 5 ≤ tlen → tlen ≤ 205 → bufRead s.hostIn 0 (tlen - 5) = some p →
      exec (.checksum seq tlen) s =
        .next (State.finish s
          { Result.plain .ok with value := BitVec.ofNat 16 ((seq + tlen + (p.map BitVec.toNat).sum) % 251) })

/-- R92, R87, R61: `BUILD_DATA` of at most 200 bytes places `[212, L+5, seq] ++ payload ++ [checksum, 204]` at
`TX_BUF[0..L+5)` and answers its length; every other byte of `TX_BUF`, and every other register and buffer, is unchanged. Of
more than 200 bytes it is a usage error, and writes `RESULT` only. -/
def Obligations.BuildDataPlacesTheFrame : Prop :=
  ∀ (s : State) (len seq : Nat),
    (200 < len → exec (.buildData len seq) s = .next (State.finish s (Result.plain .usageError))) ∧
    ∀ p : List Byte, seq < 256 → len ≤ 200 → bufRead s.hostIn 0 len = some p →
      ∃ m, exec (.buildData len seq) s =
          .next (State.finish { s with txBuf := m, txLen := len + 5 }
            { Result.plain .ok with value := BitVec.ofNat 16 (len + 5) }) ∧
        bufRead m 0 (len + 5) =
          some ([212, BitVec.ofNat 8 (len + 5), BitVec.ofNat 8 seq] ++ p ++
            [BitVec.ofNat 8 ((seq + (len + 5) + (p.map BitVec.toNat).sum) % 251), 204]) ∧
        ∀ j, len + 5 ≤ j → m.read j = s.txBuf.read j

/-- R93, R88, R68: `BUILD_ACK` always places `[212, 5, seq, (seq + 5) mod 251, 204]` at `TX_BUF[0..5)` and answers 5.
Every other byte of `TX_BUF`, and every other register and buffer, is unchanged. -/
def Obligations.BuildAckPlacesTheFrame : Prop :=
  ∀ (s : State) (seq : Nat), seq < 256 →
    ∃ m, exec (.buildAck seq) s =
        .next (State.finish { s with txBuf := m, txLen := 5 } { Result.plain .ok with value := 5 }) ∧
      bufRead m 0 5 = some [212, 5, BitVec.ofNat 8 seq, BitVec.ofNat 8 ((seq + 5) % 251), 204] ∧
      ∀ j, 5 ≤ j → m.read j = s.txBuf.read j

/-- R94, R89: `VERIFY` of at most 205 written bytes answers `GOOD` exactly when they are the frame of some payload and
sequence byte, else `BAD`; of more it is a usage error. It writes `RESULT` only. -/
def Obligations.VerifyAnswersTheVerdict : Prop :=
  ∀ (s : State) (n : Nat),
    (205 < n → exec (.verify n) s = .next (State.finish s (Result.plain .usageError))) ∧
    ∀ f : List Byte, n ≤ 205 → bufRead s.hostIn 0 n = some f →
      ((∃ p q, p.length ≤ 200 ∧ f = frameOf p q) →
        exec (.verify n) s = .next (State.finish s (Result.plain .good))) ∧
      ((¬ ∃ p q, p.length ≤ 200 ∧ f = frameOf p q) →
        exec (.verify n) s = .next (State.finish s (Result.plain .bad)))

/-- R95, R90, D46: `EXTRACT` of a Good frame returns its sequence field and its payload truncated to `max` bytes in
`HOST_OUT[0..OUT_LEN)`; every other byte of `HOST_OUT`, and every other register and buffer, is unchanged. Of a frame that is
not Good it ends in `BAD`, and of more than 205 bytes it is a usage error, with `HOST_OUT` and `OUT_LEN` unchanged. -/
def Obligations.ExtractReturnsTheTruncatedPayload : Prop :=
  ∀ (s : State) (n max : Nat),
    (205 < n → exec (.extract n max) s = .next (State.finish s (Result.plain .usageError))) ∧
    (∀ f : List Byte, n ≤ 205 → bufRead s.hostIn 0 n = some f → verifyFrame f = .bad →
      exec (.extract n max) s = .next (State.finish s (Result.plain .bad))) ∧
    ∀ (p : List Byte) (q : Byte), p.length ≤ 200 → n = p.length + 5 → bufRead s.hostIn 0 n = some (frameOf p q) →
      ∃ m, exec (.extract n max) s =
          .next (State.finish { s with hostOut := m, outLen := min p.length max }
            { Result.plain .ok with value := BitVec.ofNat 16 (min p.length max), seq := q }) ∧
        bufRead m 0 (min p.length max) = some (p.take max) ∧
        ∀ j, min p.length max ≤ j → m.read j = s.hostOut.read j

/-- R45, R174: a command that would read an unwritten `HOST_IN` byte is refused. -/
def Obligations.UnwrittenHostInputIsRefused : Prop :=
  ∀ (s : State) (x y : Nat),
    (5 ≤ y → y ≤ 205 → bufRead s.hostIn 0 (y - 5) = none → exec (.checksum x y) s = .refused .unwrittenHostInput) ∧
    (x ≤ 200 → bufRead s.hostIn 0 x = none → exec (.buildData x y) s = .refused .unwrittenHostInput) ∧
    (x ≤ 205 → bufRead s.hostIn 0 x = none → exec (.verify x) s = .refused .unwrittenHostInput) ∧
    (x ≤ 205 → bufRead s.hostIn 0 x = none → exec (.extract x y) s = .refused .unwrittenHostInput) ∧
    (s.connected = true → x ≤ 200 → 1 ≤ y → bufRead s.hostIn 0 x = none →
      exec (.send x y) s = .refused .unwrittenHostInput)

/-- R96: round trip of the codec functions, for every payload of at most 200 bytes and every sequence byte. -/
def Obligations.CodecRoundTrip : Prop :=
  ∀ (p : List Byte) (q : Byte), p.length ≤ 200 →
    ∃ f, buildDataFrame p q = .ok f ∧ f.length = p.length + 5 ∧ verifyFrame f = .good ∧
      ∀ m, p.length ≤ m → extractPayload f m = .ok (q, p)

/-- R89, R61: within the receive buffer's capacity, the Good frames are exactly the frames of a payload of at most 200
bytes and a sequence byte. -/
def Obligations.GoodFramesAreTheBuiltOnes : Prop :=
  ∀ f : List Byte, f.length ≤ 205 →
    (verifyFrame f = .good ↔ ∃ p q, p.length ≤ 200 ∧ f = frameOf p q)

/-- R97: flipping one bit of the length byte, the sequence byte or a payload byte of a built frame always makes it Bad. -/
def Obligations.SingleBitFlipsAreDetected : Prop :=
  ∀ (p : List Byte) (q : Byte) (i k : Nat), p.length ≤ 200 → 1 ≤ i → i < p.length + 3 → k < 8 →
    verifyFrame ((frameOf p q).set i (byteAt (frameOf p q) i ^^^ BitVec.ofNat 8 (2 ^ k))) = .bad

/-- R86: a change of the payload that keeps its length and its sum mod 251 (two bytes swapped, one byte changed by 251)
escapes: the frame with the old checksum byte is still Good. -/
def Obligations.SumPreservingCorruptionEscapes : Prop :=
  ∀ (p p' : List Byte) (q : Byte), p.length ≤ 200 → p'.length = p.length →
    (p'.map BitVec.toNat).sum % 251 = (p.map BitVec.toNat).sum % 251 →
    verifyFrame ((frameOf p q).take 3 ++ p' ++ (frameOf p q).drop (p.length + 3)) = .good

/-! ### The framer -/

/-- R101, R103, R104, R109: however the channel delivers a candidate frame `212 :: l :: body` of `n = max(l, 2)` bytes, at
most 205, before the deadline (noise before it, empty answers before the length byte and in the body, the body in pieces of
any size), the framer returns `Got(n)` to its caller with exactly those bytes in `RX_BUF[0..n)`, and has consumed nothing
beyond them. It writes `RX_BUF` and `RX_LEN` and nothing else of the block. -/
def Obligations.FramerReturnsTheDeliveredFrame : Prop :=
  ∀ (s : State) (c : Caller) (dl : Nat) (h : Handle) (d : Delivery) (l : Byte) (body : List Byte) (rest : List Input),
    s.refused = false → s.ctrl = .framerT c dl .hunt → s.rxLen = 0 → s.chanHandle = some h →
    l.toNat ≤ 205 → body.length + 2 = max l.toNat 2 → d.brings s.lastNow dl l body →
    s.inputs = pollInputs (d.polls l) ++ rest →
    ∃ rb ln polls ct, stepN d.steps s = framerReturn c (.got (max l.toNat 2))
        { s with
          rxBuf := rb, rxLen := max l.toNat 2, ctrl := ct, lastNow := ln, inputs := rest, trace := polls ++ s.trace } ∧
      bufRead rb 0 (max l.toNat 2) = some (212 :: l :: body) ∧
      (∀ j, max l.toNat 2 ≤ j → rb.read j = s.rxBuf.read j) ∧ ∀ e ∈ polls, e.isPoll h

/-- R107: `READ_FRAME` sets `DEADLINE` to the clock's answer plus its budget and answers `FR_GOT` with the length of the
delivered candidate frame, which is in `RX_BUF`. No counter and no register outside `DEADLINE`, `RX_BUF`, `RX_LEN` and
`RESULT` changes. -/
def Obligations.ReadFrameAnswersTheDeliveredFrame : Prop :=
  ∀ (s : State) (secs t0 : Nat) (h : Handle) (d : Delivery) (l : Byte) (body : List Byte) (rest : List Input),
    s.refused = false → s.connected = true → s.chanHandle = some h → s.lastNow ≤ t0 →
    l.toNat ≤ 205 → body.length + 2 = max l.toNat 2 → d.brings t0 (t0 + secs * s.params.ticksPerSecond) l body →
    s.inputs = .answer (.now t0) :: (pollInputs (d.polls l) ++ rest) →
    ∃ a rb ln polls, exec (.readFrame secs) s = .next a ∧
      stepN (1 + d.steps) a = .next (State.finish { s with
          deadline := t0 + secs * s.params.ticksPerSecond, rxBuf := rb, rxLen := max l.toNat 2, lastNow := ln,
          inputs := rest, trace := polls ++ ⟨.now, .now t0⟩ :: s.trace }
          { Result.plain .frGot with value := BitVec.ofNat 16 (max l.toNat 2) }) ∧
      bufRead rb 0 (max l.toNat 2) = some (212 :: l :: body) ∧
      (∀ j, max l.toNat 2 ≤ j → rb.read j = s.rxBuf.read j) ∧ ∀ e ∈ polls, e.isPoll h

/-- R100, R102, R111: in each of its three loops the framer looks at the deadline before it reads: a clock answer that has
reached the deadline ends it with `Timeout`, and `READ_FRAME` then with `FR_TIMEOUT`, without a read. -/
def Obligations.ElapsedDeadlineEndsTheFramer : Prop :=
  ∀ (s : State) (c : Caller) (dl t : Nat) (ph : Phase) (rest : List Input),
    s.refused = false → s.ctrl = .framerT c dl ph → s.inputs = .answer (.now t) :: rest → s.lastNow ≤ t → dl ≤ t →
    step s = framerReturn c .timeout { s with inputs := rest, lastNow := t, trace := ⟨.now, .now t⟩ :: s.trace } ∧
    (c = .readFrame → step s = .next (State.finish { s with
        inputs := rest, lastNow := t, trace := ⟨.now, .now t⟩ :: s.trace }
      (Result.plain .frTimeout)))

/-- R104: a declared length of 0, 1 or 2 makes the framer return `Got(2)` right after the length byte. -/
def Obligations.ShortDeclaredLengthReturnsTwoBytes : Prop :=
  ∀ (s : State) (c : Caller) (dl : Nat) (h : Handle) (l : Byte) (rest : List Input),
    s.refused = false → s.ctrl = .framerR c dl .length → s.chanHandle = some h → s.rxLen = 1 → l.toNat ≤ 2 →
    s.inputs = .answer (.chanRead (.bytes [l])) :: rest →
    step s = framerReturn c (.got 2) { s with
      rxBuf := s.rxBuf.write 1 l, rxLen := 2, inputs := rest,
      trace := ⟨.chanRead h 1, .chanRead (.bytes [l])⟩ :: s.trace }

/-- R102, R106, R107: with `RX_BUF` full and the frame not complete, the framer looks at the deadline once more and returns
`Overflow` to its caller; `READ_FRAME` then ends with `FR_OVERFLOW`. -/
def Obligations.FullBufferReturnsOverflow : Prop :=
  ∀ (s : State) (c : Caller) (dl t target : Nat) (rest : List Input),
    s.refused = false → s.ctrl = .framerT c dl (.body target) → s.rxLen = 205 →
    s.inputs = .answer (.now t) :: rest → s.lastNow ≤ t → t < dl →
    step s = framerReturn c .overflow { s with inputs := rest, lastNow := t, trace := ⟨.now, .now t⟩ :: s.trace } ∧
    (c = .readFrame → step s = .next (State.finish { s with
        inputs := rest, lastNow := t, trace := ⟨.now, .now t⟩ :: s.trace }
      (Result.plain .frOverflow)))

/-- R51, R103, R109: in every state that meets the invariant, a running framer asks `ChanRead` for at least one byte, for
one byte only outside the body, and in the body for no byte beyond the frame and none beyond the buffer. -/
def Obligations.FramerAsksForNoByteBeyondTheFrame : Prop :=
  ∀ (s : State) (c : Caller) (dl : Nat) (ph : Phase), s.Inv → s.ctrl = .framerR c dl ph →
    ∃ h m, s.waiting = .call (.chanRead h m) ∧ s.chanHandle = some h ∧ 1 ≤ m ∧
      match ph with
      | .hunt        => m = 1
      | .length      => m = 1
      | .body target => s.rxLen + m ≤ target ∧ s.rxLen + m ≤ 205

/-- R103, R122, R135: an error answer of `ChanRead` ends the framer, and with it the command of its caller: `SEND` and
`RECEIVE` with `TRANSPORT_FAILURE`, `READ_FRAME` with `FR_CHANNEL_ERROR`, with the provider's code. -/
def Obligations.ReadErrorEndsTheCommand : Prop :=
  ∀ (s : State) (c : Caller) (dl : Nat) (ph : Phase) (h : Handle) (e : Int) (rest : List Input),
    s.refused = false → s.ctrl = .framerR c dl ph → s.chanHandle = some h → e < 0 →
    s.inputs = .answer (.chanRead (.error e)) :: rest →
    step s = .next (State.finish { s with
        inputs := rest, trace := ⟨.chanRead h (readSize s.rxLen ph), .chanRead (.error e)⟩ :: s.trace }
      (Result.withCode (match c with
        | .readFrame     => .frChannelError
        | .send _ _      => .transportFailure
        | .receive _ _ _ => .transportFailure) e))

/-! ### The sender -/

/-- R117: `SEND` while disconnected, or of more than 200 bytes, ends at once with `USAGE_ERROR`, calls no primitive and writes
no register but `RESULT`. -/
def Obligations.SendOutsideItsPreconditionIsAUsageError : Prop :=
  ∀ (s : State) (len attempts : Nat), s.connected = false ∨ 200 < len →
    exec (.send len attempts) s = .next (State.finish s (Result.plain .usageError))

/-- R124, R140: with no attempt allowed, `SEND` and `RECEIVE` give up at once, after their preconditions, and write
`RESULT` only. -/
def Obligations.NoAttemptsGiveUpAtOnce : Prop :=
  ∀ (s : State) (x : Nat), s.connected = true →
    (x ≤ 200 → exec (.send x 0) s = .next (State.finish s (Result.plain .giveUp))) ∧
    exec (.receive x 0) s = .next (State.finish s (Result.plain .giveUp))

/-- R118, R119: a `SEND` that passes its preconditions builds the data frame of its payload and `TX_SEQ` in `TX_BUF` and
offers it whole to the channel; nothing else but `ATTEMPT` and `CTRL` changes. -/
def Obligations.SendOffersItsDataFrame : Prop :=
  ∀ (s : State) (len attempts : Nat) (p : List Byte) (h : Handle),
    s.connected = true → s.chanHandle = some h → len ≤ 200 → 1 ≤ attempts → bufRead s.hostIn 0 len = some p →
    ∃ m, exec (.send len attempts) s =
        .next { s with txBuf := m, txLen := len + 5, attempt := 1, ctrl := .sWrite len attempts } ∧
      bufRead m 0 (len + 5) = some (frameOf p (seqByte s.txSeq)) ∧
      (∀ j, len + 5 ≤ j → m.read j = s.txBuf.read j) ∧
      State.waiting { s with txBuf := m, txLen := len + 5, attempt := 1, ctrl := .sWrite len attempts } =
        .call (.chanWrite h (frameOf p (seqByte s.txSeq)))

/-- R118, R123: a `SEND` offers its data frame in attempt 1, and in any attempt whose frame is written in full, and to which
the channel then delivers any valid frame whose sequence field is `TX_SEQ` before the deadline, it ends `OK`: `TX_SEQ`
advances by 1 mod 16, `FRAMES_SENT` and `ACKS_RX` are 1 higher in that attempt, and no other register changes beyond the
buffers, `DEADLINE`, `ATTEMPT` and `RESULT`. What an attempt before it does, LostSendAttemptIsCountedAndRetried says. -/
def Obligations.SendSucceedsOnAMatchingResponse : Prop :=
  ∀ (s : State) (len attempts t0 : Nat) (p q : List Byte) (f : Byte) (h : Handle) (d : Delivery) (rest : List Input),
    s.refused = false → s.connected = true → s.chanHandle = some h → len ≤ 200 → 1 ≤ attempts →
    bufRead s.hostIn 0 len = some p → q.length ≤ 200 → f.toNat = s.txSeq.toNat → s.lastNow ≤ t0 →
    d.bringsFrame t0 (t0 + 4 * s.params.ticksPerSecond) q f →
    s.inputs = .answer (.chanWrite ((len + 5 : Nat) : Int)) :: .answer (.now t0) :: (d.inputs q ++ rest) →
    (∃ tb, exec (.send len attempts) s =
        .next { s with txBuf := tb, txLen := len + 5, attempt := 1, ctrl := .sWrite len attempts } ∧
      bufRead tb 0 (len + 5) = some (frameOf p (seqByte s.txSeq)) ∧
      ∀ j, len + 5 ≤ j → tb.read j = s.txBuf.read j) ∧
    ∀ (tb : Memory) (n : BitVec 8), bufRead tb 0 (len + 5) = some (frameOf p (seqByte s.txSeq)) →
      ∃ rb ln polls,
        stepN (2 + d.steps) { s with txBuf := tb, txLen := len + 5, attempt := n, ctrl := .sWrite len attempts } =
          .next (State.finish { s with
            txSeq := s.txSeq + 1,
            counters := { s.counters with framesSent := s.counters.framesSent + 1, acksRx := s.counters.acksRx + 1 },
            txBuf := tb, txLen := len + 5, rxBuf := rb, rxLen := q.length + 5,
            deadline := t0 + 4 * s.params.ticksPerSecond, lastNow := ln, inputs := rest,
            trace := polls ++ ⟨.now, .now t0⟩ ::
              ⟨.chanWrite h (frameOf p (seqByte s.txSeq)), .chanWrite ((len + 5 : Nat) : Int)⟩ :: s.trace }
            (Result.plain .ok)) ∧
        bufRead rb 0 (q.length + 5) = some (frameOf q f) ∧
        (∀ j, q.length + 5 ≤ j → rb.read j = s.rxBuf.read j) ∧ ∀ e ∈ polls, e.isPoll h

/-- R120: the data frame goes to the channel whole, in one `ChanWrite`. An answer below its length (a short write or an error)
ends `SEND` with `TRANSPORT_FAILURE` and that answer: no counter moves and `TX_SEQ` is unchanged. A full write adds 1 to
`FRAMES_SENT`, and the `SEND` goes on to set its deadline. -/
def Obligations.DataFrameWriteIsFullOrEndsTheSend : Prop :=
  ∀ (s : State) (len attempts : Nat) (h : Handle) (f : List Byte) (k : Int) (rest : List Input),
    s.refused = false → s.ctrl = .sWrite len attempts → s.chanHandle = some h →
    bufRead s.txBuf 0 s.txLen = some f → s.inputs = .answer (.chanWrite k) :: rest →
    (k < (s.txLen : Int) →
      step s = .next (State.finish { s with inputs := rest, trace := ⟨.chanWrite h f, .chanWrite k⟩ :: s.trace }
        (Result.withCode .transportFailure k))) ∧
    (k = (s.txLen : Int) →
      step s = .next { s with
        counters := { s.counters with framesSent := s.counters.framesSent + 1 }, ctrl := .sDl len attempts,
        inputs := rest, trace := ⟨.chanWrite h f, .chanWrite k⟩ :: s.trace })

/-- R122, R123, R124: what each lost attempt of a `SEND` does. A timeout or an overflow adds 1 to `TIMEOUTS`, a Bad frame 1
to `BAD_RX`, a Good frame with another sequence field 1 to `ACKS_RX`; then the identical frame is offered again in the next
attempt, or, after the last one, the command ends with `GIVE_UP`. -/
def Obligations.LostSendAttemptIsCountedAndRetried : Prop :=
  ∀ (s : State) (len attempts : Nat) (p : List Byte), len ≤ 200 → bufRead s.hostIn 0 len = some p →
    ∃ m, bufRead m 0 (len + 5) = some (frameOf p (seqByte s.txSeq)) ∧
      (∀ j, len + 5 ≤ j → m.read j = s.txBuf.read j) ∧
      ∀ (o : FramerOutcome) (c : Counters),
        ((o = .timeout ∨ o = .overflow) ∧ c = { s.counters with timeouts := s.counters.timeouts + 1 } ∨
          ∃ n f, o = .got n ∧ bufRead s.rxBuf 0 n = some f ∧
            (verifyFrame f = .bad ∧ c = { s.counters with badRx := s.counters.badRx + 1 } ∨
             verifyFrame f = .good ∧ (byteAt f 2).toNat ≠ s.txSeq.toNat ∧
               c = { s.counters with acksRx := s.counters.acksRx + 1 })) →
        (s.attempt.toNat < attempts → framerReturn (.send len attempts) o s = .next { s with
          counters := c, txBuf := m, txLen := len + 5, attempt := s.attempt + 1, ctrl := .sWrite len attempts }) ∧
        (attempts ≤ s.attempt.toNat →
          framerReturn (.send len attempts) o s = .next (State.finish { s with counters := c } (Result.plain .giveUp)))

/-- R124, R127: a `SEND` to which no response comes back gives up after exactly the attempts it was given: it offers the
identical frame once in each, `FRAMES_SENT` and `TIMEOUTS` each increase by the number of attempts, and `TX_SEQ`, `RX_LAST`,
the session and the other counters stay. -/
def Obligations.NoResponseGivesUpAfterExactlyTheAttempts : Prop :=
  ∀ (s : State) (len : Nat) (p : List Byte) (h : Handle) (xs : List LostAttempt) (rest : List Input),
    s.refused = false → s.connected = true → s.chanHandle = some h → len ≤ 200 →
    bufRead s.hostIn 0 len = some p → 1 ≤ xs.length → xs.length ≤ 255 →
    (∀ x ∈ xs, x.lapses (4 * s.params.ticksPerSecond)) →
    (s.lastNow :: xs.flatMap LostAttempt.times).Pairwise (· ≤ ·) →
    s.inputs = xs.flatMap (fun x => x.inputs (len + 5)) ++ rest →
    ∃ a b tr, exec (.send len xs.length) s = .next a ∧
      stepN (xs.flatMap fun x => x.inputs (len + 5)).length a = .next b ∧
      b.ctrl = .idle ∧ b.result = Result.plain .giveUp ∧
      b.counters = { s.counters with
        framesSent := s.counters.framesSent + BitVec.ofNat 32 xs.length
        timeouts := s.counters.timeouts + BitVec.ofNat 32 xs.length } ∧
      b.txSeq = s.txSeq ∧ b.rxLast = s.rxLast ∧ b.connected = true ∧ b.chanHandle = some h ∧ b.inputs = rest ∧
      b.trace = tr ++ s.trace ∧
      tr.filter Exchange.isWrite = List.replicate xs.length
        ⟨.chanWrite h (frameOf p (seqByte s.txSeq)), .chanWrite ((len + 5 : Nat) : Int)⟩

/-! ### The receiver -/

/-- R134, R136: a `RECEIVE` starts in attempt 1, and in any attempt in which the channel delivers a valid frame with the
expected sequence number before the deadline, and the acknowledgment is written in full, it ends `OK`: `RX_LAST` is the
frame's sequence number, the acknowledgment echoes it, `HOST_OUT[0..OUT_LEN)` is the payload truncated to `max`, and
`GOOD_RX` and `ACKS_SENT` are 1 higher. What an attempt before it does, LostReceiveAttemptIsCountedAndNotAcknowledged and
ReceiveNaksAnOutOfSequenceFrame say. -/
def Obligations.ReceiveAcceptsTheExpectedBlock : Prop :=
  ∀ (s : State) (max attempts e t0 : Nat) (q : List Byte) (f : Byte) (h : Handle) (d : Delivery) (rest : List Input),
    s.refused = false → s.connected = true → s.chanHandle = some h → 1 ≤ attempts →
    (e : Int) = (sint8 s.rxLast + 1) % 16 →
    q.length ≤ 200 → f.toNat = e → s.lastNow ≤ t0 →
    d.bringsFrame t0 (t0 + 6 * s.params.ticksPerSecond) q f →
    s.inputs = .answer (.now t0) :: (d.inputs q ++ .answer (.chanWrite 5) :: rest) →
    exec (.receive max attempts) s = .next { s with attempt := 1, ctrl := .rDl max attempts e } ∧
    ∀ n : BitVec 8, ∃ tb rb ob ln polls,
      stepN (1 + d.steps + 1) { s with attempt := n, ctrl := .rDl max attempts e } = .next (State.finish { s with
          rxLast := f,
          counters := { s.counters with goodRx := s.counters.goodRx + 1, acksSent := s.counters.acksSent + 1 },
          txBuf := tb, txLen := 5, rxBuf := rb, rxLen := q.length + 5, hostOut := ob,
          outLen := min q.length max, deadline := t0 + 6 * s.params.ticksPerSecond, lastNow := ln,
          inputs := rest,
          trace := ⟨.chanWrite h (frameOf [] f), .chanWrite 5⟩ :: polls ++ ⟨.now, .now t0⟩ :: s.trace }
          { Result.plain .ok with value := BitVec.ofNat 16 (min q.length max) }) ∧
      bufRead tb 0 5 = some (frameOf [] f) ∧ (∀ j, 5 ≤ j → tb.read j = s.txBuf.read j) ∧
      bufRead rb 0 (q.length + 5) = some (frameOf q f) ∧ (∀ j, q.length + 5 ≤ j → rb.read j = s.rxBuf.read j) ∧
      bufRead ob 0 (min q.length max) = some (q.take max) ∧
      (∀ j, min q.length max ≤ j → ob.read j = s.hostOut.read j) ∧ ∀ x ∈ polls, x.isPoll h

/-- R137: in any attempt, a duplicate (a valid frame whose sequence number is `RX_LAST`) is acknowledged and returned again,
and `RX_LAST` stays. -/
def Obligations.ReceiveRedeliversADuplicate : Prop :=
  ∀ (s : State) (max attempts e t0 : Nat) (q : List Byte) (f : Byte) (h : Handle) (d : Delivery) (rest : List Input),
    s.refused = false → s.connected = true → s.chanHandle = some h → 1 ≤ attempts →
    (e : Int) = (sint8 s.rxLast + 1) % 16 →
    q.length ≤ 200 → (f.toNat : Int) = sint8 s.rxLast → s.lastNow ≤ t0 →
    d.bringsFrame t0 (t0 + 6 * s.params.ticksPerSecond) q f →
    s.inputs = .answer (.now t0) :: (d.inputs q ++ .answer (.chanWrite 5) :: rest) →
    exec (.receive max attempts) s = .next { s with attempt := 1, ctrl := .rDl max attempts e } ∧
    ∀ n : BitVec 8, ∃ tb rb ob ln polls,
      stepN (1 + d.steps + 1) { s with attempt := n, ctrl := .rDl max attempts e } = .next (State.finish { s with
          counters := { s.counters with goodRx := s.counters.goodRx + 1, acksSent := s.counters.acksSent + 1 },
          txBuf := tb, txLen := 5, rxBuf := rb, rxLen := q.length + 5, hostOut := ob,
          outLen := min q.length max, deadline := t0 + 6 * s.params.ticksPerSecond, lastNow := ln,
          inputs := rest,
          trace := ⟨.chanWrite h (frameOf [] f), .chanWrite 5⟩ :: polls ++ ⟨.now, .now t0⟩ :: s.trace }
          { Result.plain .ok with value := BitVec.ofNat 16 (min q.length max) }) ∧
      bufRead tb 0 5 = some (frameOf [] f) ∧ (∀ j, 5 ≤ j → tb.read j = s.txBuf.read j) ∧
      bufRead rb 0 (q.length + 5) = some (frameOf q f) ∧ (∀ j, q.length + 5 ≤ j → rb.read j = s.rxBuf.read j) ∧
      bufRead ob 0 (min q.length max) = some (q.take max) ∧
      (∀ j, min q.length max ≤ j → ob.read j = s.hostOut.read j) ∧ ∀ x ∈ polls, x.isPoll h

/-- R138: in any attempt, a valid frame with any other sequence field is not accepted: the acknowledgment echoes `RX_LAST`
(255 for −1), the attempt is used up, and neither `RX_LAST` nor `HOST_OUT` changes. After the last attempt the command
gives up. -/
def Obligations.ReceiveNaksAnOutOfSequenceFrame : Prop :=
  ∀ (s : State) (max attempts e t0 : Nat) (q : List Byte) (f : Byte) (h : Handle) (d : Delivery) (rest : List Input),
    s.refused = false → s.connected = true → s.chanHandle = some h → 1 ≤ attempts →
    (e : Int) = (sint8 s.rxLast + 1) % 16 →
    q.length ≤ 200 → f.toNat ≠ e → (f.toNat : Int) ≠ sint8 s.rxLast → s.lastNow ≤ t0 →
    d.bringsFrame t0 (t0 + 6 * s.params.ticksPerSecond) q f →
    s.inputs = .answer (.now t0) :: (d.inputs q ++ .answer (.chanWrite 5) :: rest) →
    exec (.receive max attempts) s = .next { s with attempt := 1, ctrl := .rDl max attempts e } ∧
    ∀ n : BitVec 8, ∃ (tb rb : Memory) (ln : Nat) (polls : List Exchange),
      let r : State := { s with
        counters := { s.counters with
          goodRx := s.counters.goodRx + 1, acksSent := s.counters.acksSent + 1 },
        txBuf := tb, txLen := 5, rxBuf := rb, rxLen := q.length + 5,
        deadline := t0 + 6 * s.params.ticksPerSecond, lastNow := ln, inputs := rest,
        trace := ⟨.chanWrite h (frameOf [] s.rxLast), .chanWrite 5⟩ :: polls ++ ⟨.now, .now t0⟩ :: s.trace }
      stepN (1 + d.steps + 1) { s with attempt := n, ctrl := .rDl max attempts e } = .next (
        if n.toNat < attempts then { r with attempt := n + 1, ctrl := .rDl max attempts e }
        else State.finish r (Result.plain .giveUp)) ∧
      bufRead tb 0 5 = some (frameOf [] s.rxLast) ∧ (∀ j, 5 ≤ j → tb.read j = s.txBuf.read j) ∧
      bufRead rb 0 (q.length + 5) = some (frameOf q f) ∧ (∀ j, q.length + 5 ≤ j → rb.read j = s.rxBuf.read j) ∧
      ∀ x ∈ polls, x.isPoll h

/-- R139: a short or failed acknowledgment write ends `RECEIVE` with `TRANSPORT_FAILURE` on every path: `ACKS_SENT` does not
increase, the data is not returned, and what was written before (`RX_LAST` on the new-block path) stands. -/
def Obligations.FailedAckWriteEndsTheReceive : Prop :=
  ∀ (s : State) (max attempts e : Nat) (path : AckPath) (f : Byte) (d xs : List Byte) (h : Handle) (k : Int)
    (rest : List Input),
    s.refused = false → s.ctrl = .rAck max attempts e path f d → s.chanHandle = some h →
    bufRead s.txBuf 0 s.txLen = some xs → k < (s.txLen : Int) → s.inputs = .answer (.chanWrite k) :: rest →
    step s = .next (State.finish { s with inputs := rest, trace := ⟨.chanWrite h xs, .chanWrite k⟩ :: s.trace }
      (Result.withCode .transportFailure k))

/-- R135, R140: a timeout, an overflow or a Bad frame is counted and not acknowledged; the next attempt follows, or, after
the last one, `GIVE_UP`. Neither `TX_BUF` nor `RX_LAST` changes. -/
def Obligations.LostReceiveAttemptIsCountedAndNotAcknowledged : Prop :=
  ∀ (s : State) (max attempts e : Nat) (o : FramerOutcome) (c : Counters),
    ((o = .timeout ∨ o = .overflow) ∧ c = { s.counters with timeouts := s.counters.timeouts + 1 } ∨
      ∃ n f, o = .got n ∧ bufRead s.rxBuf 0 n = some f ∧ verifyFrame f = .bad ∧
        c = { s.counters with badRx := s.counters.badRx + 1 }) →
    (s.attempt.toNat < attempts → framerReturn (.receive max attempts e) o s = .next { s with
      counters := c, attempt := s.attempt + 1, ctrl := .rDl max attempts e }) ∧
    (attempts ≤ s.attempt.toNat →
      framerReturn (.receive max attempts e) o s = .next (State.finish { s with counters := c } (Result.plain .giveUp)))

/-! ### The whole machine -/

/-- The invariant of Safety.lean holds after power-on. -/
def Obligations.PowerOnMeetsTheInvariant : Prop := State.reset.Inv

/-- R23, R32, R45, R51, R103, R118, R134: every step keeps the invariant: canonical and bounded buffers, `CONNECTED = 1`
exactly with a handle, a legal `RX_LAST`, and at each control point what its command needs. -/
def Obligations.EveryStepKeepsTheInvariant : Prop :=
  ∀ s t : State, s.Inv → step s = .next t → t.Inv

/-- R43, R45, R98, R156: from every state that meets the invariant no step faults: no rule reads an unwritten byte of a
frame buffer, and no channel primitive is called without a handle. -/
def Obligations.NoStepFaults : Prop :=
  ∀ (s : State) (f : Fault), s.Inv → step s ≠ .fault f

/-- R174, R14: from every state that meets the invariant, a step is refused only in the situations of the spec's list that
a host program can cause, or when the environment breaks its contract. That an illegal word issued while a command runs is
among the former is the model's choice (log entry 20). -/
def Obligations.OnlyTheListedRefusalsOccur : Prop :=
  ∀ (s : State) (r : Refusal), s.Inv → step s = .refused r →
    (r = .connectWhileConnected ∧ s.connected = true ∧ s.ctrl = .idle) ∨
    (r = .commandWhileBusy ∧ s.ctrl ≠ .idle) ∨
    (r = .hostWriteWhileBusy ∧ s.ctrl ≠ .idle) ∨
    (r = .unwrittenHostInput ∧ s.ctrl = .idle) ∨
    (r = .answerOutsideContract ∧ ∃ a rest, s.inputs = .answer a :: rest ∧
      ∀ c, s.waiting = .call c → c.admits s.lastNow a = false)

/-- R20 to R23, R33 to R41, R9: which steps change a register, and to what where the rule gives it. `CONNECTED` and
`CHAN_HANDLE`: the lifecycle commands. `TX_SEQ`: `CONNECT`, and a `SEND` that ends `OK`. `RX_LAST`: `CONNECT`, and a
`RECEIVE` that accepts a frame. `TX_BUF`, `TX_LEN`: a build, by `BUILD_DATA`, `BUILD_ACK`, an attempt of `SEND` or the
acknowledgment of `RECEIVE`. `RX_BUF`, `RX_LEN`: the framer, which clears `RX_LEN` when it starts. `HOST_IN`: the host.
`HOST_OUT`, `OUT_LEN`: a `RECEIVE` or an `EXTRACT` that ends `OK`. `DEADLINE`: the four settings of a deadline. `CTRL`: a
command that is issued or runs. `ATTEMPT`: an attempt of `SEND` or `RECEIVE` that starts (at the end of a command it holds a
free value, log entry 5). `RESULT`: the end of a command. `REFUSED` and the parameters: nothing. The counters have
CountersMoveByOneAtTheirEvents. -/
def Obligations.RegistersChangeOnlyWhereTheTableSays : Prop :=
  ∀ s t : State, step s = .next t →
    t.params = s.params ∧ t.refused = s.refused ∧
    (t.connected ≠ s.connected ∨ t.chanHandle ≠ s.chanHandle → s.ctrl = .lOpen ∨ s.ctrl = .lClose) ∧
    (t.txSeq ≠ s.txSeq → s.ctrl = .lOpen ∧ t.txSeq = 0 ∨
      (∃ len m dl ph, s.ctrl = .framerR (.send len m) dl ph) ∧ t.txSeq = s.txSeq + 1 ∧
        t.ctrl = .idle ∧ t.result = Result.plain .ok) ∧
    (t.rxLast ≠ s.rxLast → s.ctrl = .lOpen ∧ t.rxLast = 0xFF ∨
      ∃ ms m e dl ph d, s.ctrl = .framerR (.receive ms m e) dl ph ∧ t.ctrl = .rAck ms m e .newBlock t.rxLast d ∧
        t.rxLast.toNat = e ∧ (s.Inv → e = expectedSeq s.rxLast)) ∧
    (t.txBuf ≠ s.txBuf ∨ t.txLen ≠ s.txLen →
      (∃ len q, s.takesIn (.buildData len q)) ∨ (∃ q, s.takesIn (.buildAck q)) ∨
      (∃ len m, t.ctrl = .sWrite len m ∧ (s.takesIn (.send len m) ∨ s.inFramerOf (.send len m))) ∨
      ∃ ms m e dl ph p f d, s.ctrl = .framerR (.receive ms m e) dl ph ∧ t.ctrl = .rAck ms m e p f d) ∧
    (t.rxBuf ≠ s.rxBuf → ∃ c dl ph, s.ctrl = .framerR c dl ph) ∧
    (t.rxLen ≠ s.rxLen → (∃ c dl ph, s.ctrl = .framerR c dl ph) ∧ s.rxLen < t.rxLen ∨
      t.rxLen = 0 ∧
        ((∃ secs, s.ctrl = .fCmdT secs) ∨ (∃ len m, s.ctrl = .sDl len m) ∨ ∃ ms m e, s.ctrl = .rDl ms m e)) ∧
    (t.hostIn ≠ s.hostIn → s.ctrl = .idle ∧ ∃ i b rest, s.inputs = .hostWrite i b :: rest) ∧
    (t.hostOut ≠ s.hostOut ∨ t.outLen ≠ s.outLen → t.ctrl = .idle ∧ t.result.status = .ok ∧
      ((∃ ms m e p f d, s.ctrl = .rAck ms m e p f d ∧ p ≠ .outOfSequence) ∨ ∃ n max, s.takesIn (.extract n max))) ∧
    (t.deadline ≠ s.deadline →
      (∃ secs, s.ctrl = .tSet secs ∨ s.ctrl = .fCmdT secs) ∨ (∃ l m, s.ctrl = .sDl l m) ∨ ∃ ms m e, s.ctrl = .rDl ms m e) ∧
    (t.ctrl ≠ s.ctrl → s.ctrl = .idle ∧ (∃ w rest, s.inputs = .command w :: rest) ∨
      s.ctrl ≠ .idle ∧ ∃ a rest, s.inputs = .answer a :: rest) ∧
    (t.attempt ≠ s.attempt → commandEnds s t ∨
      (∃ len m, t.ctrl = .sWrite len m ∧
        (s.takesIn (.send len m) ∧ t.attempt = 1 ∨ s.inFramerOf (.send len m) ∧ t.attempt = s.attempt + 1)) ∨
      ∃ ms m e, t.ctrl = .rDl ms m e ∧
        (s.takesIn (.receive ms m) ∧ t.attempt = 1 ∨
          (s.inFramerOf (.receive ms m e) ∨ ∃ f d, s.ctrl = .rAck ms m e .outOfSequence f d) ∧
            t.attempt = s.attempt + 1)) ∧
    (t.result ≠ s.result → commandEnds s t)

/-- R24 to R30: every step leaves all counters alone, resets all (`CONNECT`), or adds 1 to exactly one, at the event of that
counter's rule. -/
def Obligations.CountersMoveByOneAtTheirEvents : Prop :=
  ∀ s t : State, step s = .next t →
    t.counters = s.counters ∨
    (s.ctrl = .lOpen ∧ t.counters = Counters.zero) ∨
    ((∃ l m, s.ctrl = .sWrite l m) ∧ t.counters = { s.counters with framesSent := s.counters.framesSent + 1 }) ∨
    ((∃ ms m e dl ph, s.ctrl = .framerR (.receive ms m e) dl ph) ∧
      t.counters = { s.counters with goodRx := s.counters.goodRx + 1 }) ∨
    ((∃ c dl ph, s.ctrl = .framerR c dl ph ∧ c ≠ .readFrame) ∧
      t.counters = { s.counters with badRx := s.counters.badRx + 1 }) ∨
    ((∃ ms m e p f d, s.ctrl = .rAck ms m e p f d) ∧
      t.counters = { s.counters with acksSent := s.counters.acksSent + 1 }) ∨
    ((∃ l m dl ph, s.ctrl = .framerR (.send l m) dl ph) ∧
      t.counters = { s.counters with acksRx := s.counters.acksRx + 1 }) ∨
    ((∃ c dl ph, s.ctrl = .framerT c dl ph ∧ c ≠ .readFrame) ∧
      t.counters = { s.counters with timeouts := s.counters.timeouts + 1 })

/-- R14, R32, R170: every step makes at most one exchange with the environment, within the primitive's contract;
`ChanOpen` is called only while disconnected and with `CONFIG`, and the other channel primitives only while connected and
with `CHAN_HANDLE`. -/
def Obligations.ChannelCallsUseTheOpenHandle : Prop :=
  ∀ s t : State, s.Inv → step s = .next t →
    t.trace = s.trace ∨
    ∃ c a, t.trace = ⟨c, a⟩ :: s.trace ∧ s.waiting = .call c ∧ c.admits s.lastNow a = true ∧
      match c with
      | .now           => True
      | .chanOpen cfg  => s.connected = false ∧ cfg = s.params.channel
      | .chanClose h   => s.connected = true ∧ s.chanHandle = some h
      | .chanWrite h _ => s.connected = true ∧ s.chanHandle = some h
      | .chanRead h _  => s.connected = true ∧ s.chanHandle = some h

/-- R118, R134, R137, R173, R179: two peers, in any attempt of each. Either they are in step, or the receiver has accepted
this block already and its acknowledgment was lost (R186). When the channel delivers what the sender offered to the
receiver, and what the receiver then offered to the sender, before the deadlines, both commands end `OK`, the receiver's
host has exactly the payload the sender's host gave, and the peers are in step. -/
def Obligations.PeersDeliverABlockAndStayInStep : Prop :=
  ∀ (a b : State) (ha hb : Handle) (len sendAttempts max receiveAttempts e ta tb : Nat) (p : List Byte)
    (da db : Delivery) (resta restb : List Input),
    a.refused = false → a.connected = true → a.chanHandle = some ha →
    b.refused = false → b.connected = true → b.chanHandle = some hb →
    inStep a b ∨ sint8 b.rxLast = (a.txSeq.toNat : Int) → (e : Int) = (sint8 b.rxLast + 1) % 16 →
    bufRead a.hostIn 0 len = some p → len ≤ 200 → len ≤ max → 1 ≤ sendAttempts → 1 ≤ receiveAttempts →
    a.lastNow ≤ ta → b.lastNow ≤ tb →
    db.bringsFrame tb (tb + 6 * b.params.ticksPerSecond) p (seqByte a.txSeq) →
    da.bringsFrame ta (ta + 4 * a.params.ticksPerSecond) [] (seqByte a.txSeq) →
    b.inputs = .answer (.now tb) :: (db.inputs p ++ .answer (.chanWrite 5) :: restb) →
    a.inputs = .answer (.chanWrite ((len + 5 : Nat) : Int)) :: .answer (.now ta) :: (da.inputs [] ++ resta) →
    (∃ m, exec (.send len sendAttempts) a =
        .next { a with txBuf := m, txLen := len + 5, attempt := 1, ctrl := .sWrite len sendAttempts } ∧
      bufRead m 0 (len + 5) = some (frameOf p (seqByte a.txSeq))) ∧
    exec (.receive max receiveAttempts) b = .next { b with attempt := 1, ctrl := .rDl max receiveAttempts e } ∧
    ∀ (m : Memory) (na nb : BitVec 8), bufRead m 0 (len + 5) = some (frameOf p (seqByte a.txSeq)) →
      let a₁ : State := { a with txBuf := m, txLen := len + 5, attempt := na, ctrl := .sWrite len sendAttempts }
      let b₁ : State := { b with attempt := nb, ctrl := .rDl max receiveAttempts e }
      a₁.waiting = .call (.chanWrite ha (frameOf p (seqByte a.txSeq))) ∧
      ∃ a' b', stepN (1 + db.steps + 1) b₁ = .next b' ∧
        b'.trace.head? = some ⟨.chanWrite hb (frameOf [] (seqByte a.txSeq)), .chanWrite 5⟩ ∧
        stepN (2 + da.steps) a₁ = .next a' ∧
        a'.result.status = .ok ∧ a'.ctrl = .idle ∧ b'.result.status = .ok ∧ b'.ctrl = .idle ∧
        b'.outLen = len ∧ bufRead b'.hostOut 0 len = some p ∧ inStep a' b'
end

