-- ==== Sys2Proof/Laws/Assembler.lean ====
section
/-! SUPPORT. The laws of the assembler's functions over texts. -/

namespace Sys2Proof.Machine

/-- A text without a comment is kept whole. -/
theorem withoutComment_id {xs : List Char} (h : ∀ c ∈ xs, c ≠ ';') : withoutComment xs = xs :=
  List.takeWhile_eq_self_iff.2 fun c hc => by simpa using h c hc

theorem dropWhile_blank {xs : List Char} (h : ∀ c ∈ xs.head?, isBlank c = false) : xs.dropWhile isBlank = xs := by
  cases xs with
  | nil => rfl
  | cons c cs => simp [List.dropWhile, h c (by simp)]

/-- A text that neither starts nor ends with a blank is kept whole. -/
theorem trim_id {xs : List Char} (h1 : ∀ c ∈ xs.head?, isBlank c = false)
    (h2 : ∀ c ∈ xs.getLast?, isBlank c = false) : trim xs = xs := by
  rw [trim, dropWhile_blank h1, dropWhile_blank (by simpa using h2), List.reverse_reverse]

/-- A blank before such a text is dropped. -/
theorem trim_blank {xs : List Char} (h1 : ∀ c ∈ xs.head?, isBlank c = false)
    (h2 : ∀ c ∈ xs.getLast?, isBlank c = false) : trim (' ' :: xs) = xs := by
  rw [show trim (' ' :: xs) = trim xs by simp [trim, List.dropWhile, isBlank], trim_id h1 h2]

/-- A text without a comma is one part. -/
theorem commaParts_one {xs : List Char} (h : ∀ c ∈ xs, c ≠ ',') : commaParts xs = [xs] := by
  induction xs with
  | nil => rfl
  | cons c cs ih => rw [commaParts, if_neg (h c (by simp)), ih fun c hc => h c (by simp [hc])]

/-- What stands before the first comma is the first part. -/
theorem commaParts_comma {xs ys : List Char} (h : ∀ c ∈ xs, c ≠ ',') :
    commaParts (xs ++ ',' :: ys) = xs :: commaParts ys := by
  induction xs with
  | nil => simp [commaParts]
  | cons c cs ih => rw [List.cons_append, commaParts, if_neg (h c (by simp)), ih fun c hc => h c (by simp [hc])]

/-- The digits of a byte in decimal: they are digits, there is one, and they read as the byte. -/
theorem parseByte_decimal : ∀ n : Fin 256, parseByte (Nat.toDigits 10 n) = some n.val ∧
    (Nat.toDigits 10 n).all Char.isDigit = true ∧ Nat.toDigits 10 n ≠ [] := by
  decide +kernel

/-- An operand's text, whose name has no equals sign, reads as the operand. -/
theorem parseOperand_text {o : String × Nat} (h : ∀ c ∈ o.1.toList, c ≠ '=') (hv : o.2 < 256) :
    parseOperand (operandText o) = some o := by
  have e : (operandText o).takeWhile (fun c => !decide (c = '=')) = o.1.toList := by
    rw [operandText, List.takeWhile_append_of_pos (by intro c hc; simpa using h c hc)]
    simp
  simp only [parseOperand, e]
  rw [operandText, show o.1.toList ++ '=' :: Nat.toDigits 10 o.2 = (o.1.toList ++ ['=']) ++ Nat.toDigits 10 o.2 by simp,
    List.drop_left' (by simp), (parseByte_decimal ⟨o.2, hv⟩).1]
  simp

end Sys2Proof.Machine
end

