-- ==== Sys2Proof/Laws/Memory.lean ====
section
/-! SUPPORT. The laws of a byte buffer: a read after a write, the canonical form, the capacity, and reading a run of
bytes. -/

namespace Sys2Proof.Machine

namespace Memory

theorem read_write_same (m : Memory) (i : Nat) (v : Byte) : (m.write i v).read i = some v := by
  induction m with
  | nil => simp [write, read]
  | cons x xs ih =>
    obtain ⟨a, b⟩ := x
    simp only [write]
    split
    · simp [read]
    · split
      · simp [read]
      · rename_i h
        simp [read, h, ih]

theorem read_write_other (m : Memory) {i j : Nat} (v : Byte) (h : j ≠ i) : (m.write i v).read j = m.read j := by
  induction m with
  | nil => simp [write, read, h]
  | cons x xs ih =>
    obtain ⟨a, b⟩ := x
    simp only [write]
    split
    · simp [read, h]
    · split
      · rename_i e
        subst e
        simp [read, h]
      · simp only [read, ih]

/-- Where a write puts its entry: every index of the result is the written one or an old one. -/
theorem mem_write {m : Memory} {i : Nat} {v : Byte} {c : Host.Cell} (h : c ∈ m.write i v) : c.1 = i ∨ c ∈ m := by
  induction m with
  | nil => simp [write] at h; simp [h]
  | cons x xs ih =>
    obtain ⟨a, b⟩ := x
    simp only [write] at h
    split at h
    · rcases List.mem_cons.1 h with rfl | h
      · exact .inl rfl
      · exact .inr h
    · split at h
      · rcases List.mem_cons.1 h with rfl | h
        · exact .inl rfl
        · exact .inr (List.mem_cons_of_mem _ h)
      · rcases List.mem_cons.1 h with rfl | h
        · exact .inr List.mem_cons_self
        · exact (ih h).imp_right (List.mem_cons_of_mem _)

theorem wf_write {m : Memory} (h : m.wf) (i : Nat) (v : Byte) : (m.write i v).wf := by
  induction m with
  | nil => simp [write, wf]
  | cons x xs ih =>
    obtain ⟨a, b⟩ := x
    obtain ⟨hx, hxs⟩ := List.pairwise_cons.1 h
    simp only [write]
    split
    · rename_i hlt
      refine List.pairwise_cons.2 ⟨fun c hc => ?_, h⟩
      rcases List.mem_cons.1 hc with rfl | hc
      · exact hlt
      · exact lt_trans hlt (hx c hc)
    · split
      · rename_i e
        subst e
        exact List.pairwise_cons.2 ⟨hx, hxs⟩
      · refine List.pairwise_cons.2 ⟨fun c hc => ?_, ih hxs⟩
        rcases mem_write hc with e | hc
        · show a < c.1
          omega
        · exact hx c hc

theorem within_write {cap : Nat} {m : Memory} (h : m.within cap) {i : Nat} (hi : i < cap) (v : Byte) :
    (m.write i v).within cap := fun c hc => by
  rcases mem_write hc with e | hc
  · omega
  · exact h c hc

end Memory

/-! ### Runs of bytes -/

theorem read_bufWrite_outside (m : Memory) (i : Nat) (xs : List Byte) {j : Nat} (h : j < i ∨ i + xs.length ≤ j) :
    (bufWrite m i xs).read j = m.read j := by
  induction xs generalizing m i with
  | nil => rfl
  | cons x xs ih =>
    simp only [List.length_cons] at h
    rw [bufWrite, ih _ _ (by omega), Memory.read_write_other _ _ (by omega)]

theorem read_bufWrite_inside (m : Memory) (i : Nat) (xs : List Byte) {j : Nat} (h : j < xs.length) :
    (bufWrite m i xs).read (i + j) = some xs[j] := by
  induction xs generalizing m i j with
  | nil => simp at h
  | cons x xs ih =>
    rw [bufWrite]
    cases j with
    | zero =>
      rw [read_bufWrite_outside _ _ _ (by omega)]
      simpa using Memory.read_write_same m i x
    | succ j =>
      have := ih (m.write i x) (i + 1) (j := j) (by simpa using h)
      simpa [Nat.add_assoc, Nat.add_comm 1 j] using this

theorem wf_bufWrite {m : Memory} (h : m.wf) (i : Nat) (xs : List Byte) : (bufWrite m i xs).wf := by
  induction xs generalizing m i with
  | nil => exact h
  | cons x xs ih => exact ih (Memory.wf_write h i x) (i + 1)

theorem within_bufWrite {cap : Nat} {m : Memory} (h : m.within cap) {i : Nat} {xs : List Byte}
    (hi : i + xs.length ≤ cap) : (bufWrite m i xs).within cap := by
  induction xs generalizing m i with
  | nil => exact h
  | cons x xs ih =>
    simp only [List.length_cons] at hi
    exact ih (Memory.within_write h (by omega) x) (by omega)

theorem bufWrite_append (m : Memory) (i : Nat) (xs ys : List Byte) :
    bufWrite m i (xs ++ ys) = bufWrite (bufWrite m i xs) (i + xs.length) ys := by
  induction xs generalizing m i with
  | nil => rfl
  | cons x xs ih => simp [bufWrite, ih, Nat.add_assoc, Nat.add_comm 1]

/-- Everything `bufRead` says: the bytes read are the bytes at the indices. -/
theorem bufRead_eq_some_iff (m : Memory) (i n : Nat) (bs : List Byte) :
    bufRead m i n = some bs ↔ bs.length = n ∧ ∀ j (h : j < bs.length), m.read (i + j) = some bs[j] := by
  induction n generalizing i bs with
  | zero =>
    simp only [bufRead, Option.some.injEq]
    constructor
    · rintro rfl
      simp
    · rintro ⟨h, -⟩
      exact (List.length_eq_zero_iff.1 h).symm
  | succ n ih =>
    rw [bufRead]
    constructor
    · intro h
      split at h
      · rename_i b bs' hb hbs
        cases h
        obtain ⟨hl, hr⟩ := (ih _ _).1 hbs
        refine ⟨by simp [hl], fun j hj => ?_⟩
        cases j with
        | zero => simpa using hb
        | succ j =>
          have := hr j (by simpa using hj)
          simpa [Nat.add_assoc, Nat.add_comm 1] using this
      · cases h
    · rintro ⟨hl, hr⟩
      cases bs with
      | nil => simp at hl
      | cons b bs =>
        have h0 : m.read i = some b := hr 0 (Nat.succ_pos _)
        have h1 : bufRead m (i + 1) n = some bs := (ih _ _).2 ⟨by simpa using hl, fun j hj => by
          have := hr (j + 1) (by simpa using hj)
          simpa [Nat.add_assoc, Nat.add_comm 1] using this⟩
        simp [h0, h1]

theorem bufRead_length {m : Memory} {i n : Nat} {bs : List Byte} (h : bufRead m i n = some bs) : bs.length = n :=
  ((bufRead_eq_some_iff m i n bs).1 h).1

/-- A run that was just written reads back. -/
theorem bufRead_bufWrite (m : Memory) (i : Nat) (xs : List Byte) : bufRead (bufWrite m i xs) i xs.length = some xs :=
  (bufRead_eq_some_iff _ _ _ _).2 ⟨rfl, fun _ h => read_bufWrite_inside m i xs h⟩

/-- Two buffers that agree on a run read the same run. -/
theorem bufRead_congr {m m' : Memory} {i n : Nat} (h : ∀ j, i ≤ j → j < i + n → m'.read j = m.read j) :
    bufRead m' i n = bufRead m i n := by
  induction n generalizing i with
  | zero => rfl
  | succ n ih =>
    rw [bufRead, bufRead, h i (by omega) (by omega), ih fun j h1 h2 => h j (by omega) (by omega)]

/-- A run splits. -/
theorem bufRead_add (m : Memory) (i a b : Nat) :
    bufRead m i (a + b) = (bufRead m i a).bind fun xs => (bufRead m (i + a) b).map (xs ++ ·) := by
  induction a generalizing i with
  | zero => cases h : bufRead m i b <;> simp [bufRead, h]
  | succ a ih =>
    rw [Nat.succ_add, bufRead, ih, bufRead]
    cases m.read i <;> cases bufRead m (i + 1) a <;> simp [Nat.add_assoc, Nat.add_comm 1]
    cases bufRead m (i + (a + 1)) b <;> simp

/-- A prefix of a written run is written. -/
theorem bufRead_prefix {m : Memory} {i n k : Nat} {bs : List Byte} (h : bufRead m i n = some bs) (hk : k ≤ n) :
    bufRead m i k = some (bs.take k) := by
  obtain ⟨hl, hr⟩ := (bufRead_eq_some_iff m i n bs).1 h
  refine (bufRead_eq_some_iff _ _ _ _).2 ⟨by simp [hl, hk], fun j hj => ?_⟩
  rw [List.length_take] at hj
  simpa using hr j (by omega)

end Sys2Proof.Machine
end

