-- ==== Sys2Proof/Laws/Codec.lean ====
section
/-! SUPPORT. What the codec functions do, once: the shape of a built frame, the verdict as a conjunction of its checks, and
extraction from a built frame. -/

namespace Sys2Proof.Machine

theorem length_frameOf (p : List Byte) (q : Byte) : (frameOf p q).length = p.length + 5 := by
  simp [frameOf]

/-- A built frame, header first. -/
theorem frameOf_eq (p : List Byte) (q : Byte) :
    frameOf p q =
      212 :: BitVec.ofNat 8 (p.length + 5) :: q :: (p ++ [checksum q (BitVec.ofNat 8 (p.length + 5)) p, 204]) := by
  simp [frameOf]

theorem byteAt_frameOf_one (p : List Byte) (q : Byte) : byteAt (frameOf p q) 1 = BitVec.ofNat 8 (p.length + 5) := by
  simp [frameOf_eq, byteAt]

theorem byteAt_frameOf_two (p : List Byte) (q : Byte) : byteAt (frameOf p q) 2 = q := by
  simp [frameOf_eq, byteAt]

/-- Everything `verifyFrame` checks. -/
theorem verifyFrame_good_iff (f : List Byte) : verifyFrame f = .good ↔
    5 ≤ f.length ∧ (byteAt f 1).toNat = f.length ∧ byteAt f 0 = 212 ∧ byteAt f (f.length - 1) = 204 ∧
    byteAt f (f.length - 2) = checksum (byteAt f 2) (byteAt f 1) (slice f 3 (f.length - 2)) := by
  simp only [verifyFrame, Config.minFrame, Config.hdrLen, Config.trlLen, Config.startMarker, Config.endMarker]
  split_ifs <;> simp_all

/-- A verdict that is not Good is Bad. -/
theorem verifyFrame_bad_iff (f : List Byte) : verifyFrame f = .bad ↔ ¬ verifyFrame f = .good := by
  cases verifyFrame f <;> simp

/-- A list with a right header and a right trailer is Good. -/
theorem verifyFrame_of_shape (l q c : Byte) (p : List Byte) (hl : l.toNat = p.length + 5) (hc : c = checksum q l p) :
    verifyFrame (212 :: l :: q :: (p ++ [c, 204])) = .good := by
  rw [verifyFrame_good_iff]
  have hn : (212 :: l :: q :: (p ++ [c, 204])).length = p.length + 5 := by simp
  rw [hn]
  refine ⟨by omega, by simpa [byteAt] using hl, by simp [byteAt], ?_, ?_⟩
  · rw [show p.length + 5 - 1 = p.length + 1 + 1 + 1 + 1 by omega]
    simp [byteAt]
  · rw [show p.length + 5 - 2 = p.length + 1 + 1 + 1 by omega]
    simp [byteAt, slice, hc]

theorem verifyFrame_frameOf (p : List Byte) (q : Byte) (h : p.length ≤ 200) : verifyFrame (frameOf p q) = .good := by
  rw [frameOf_eq]
  exact verifyFrame_of_shape _ _ _ _ (by simp; omega) rfl

theorem extractPayload_frameOf (p : List Byte) (q : Byte) (m : Nat) (h : p.length ≤ 200) :
    extractPayload (frameOf p q) m = .ok (q, p.take m) := by
  simp only [extractPayload, verifyFrame_frameOf p q h, if_true, byteAt_frameOf_one, byteAt_frameOf_two]
  simp only [slice, frameOf_eq, List.drop_succ_cons, List.drop_zero, BitVec.toNat_ofNat, Config.minFrame,
    Config.hdrLen, Config.trlLen]
  rw [Nat.mod_eq_of_lt (by omega), show 3 + min (p.length + 5 - (3 + 2)) m - 3 = min p.length m by omega,
    List.take_append_of_le_length (by omega), Nat.min_comm, ← List.take_take, List.take_length]

/-- What `extractPayload` answers on any Good frame. -/
theorem extractPayload_good {f : List Byte} (m : Nat) (h : verifyFrame f = .good) :
    extractPayload f m = .ok (byteAt f 2, slice f 3 (3 + min ((byteAt f 1).toNat - 5) m)) := by
  simp [extractPayload, h]

/-- The extracted payload of a Good frame is not longer than asked for, nor than a payload. -/
theorem length_slice_le (f : List Byte) (i j : Nat) : (slice f i j).length ≤ j - i := by
  simp [slice]

theorem buildDataFrame_ok {p : List Byte} (q : Byte) (h : p.length ≤ 200) : buildDataFrame p q = .ok (frameOf p q) := by
  simp [buildDataFrame, h]

theorem buildAckFrame_ok (q : Byte) : buildAckFrame q = .ok (frameOf [] q) := by
  simp [buildAckFrame, buildDataFrame]

/-- `withBuilt` on a frame that could be built. -/
theorem withBuilt_ok {r : Except Refusal (List Byte)} {f : List Byte} (h : r = .ok f) (s : State) (k : State → Out) :
    withBuilt r s k = k (s.putTx f) := by subst h; rfl

/-- `withExtracted` on what could be extracted. -/
theorem withExtracted_ok {r : Except Refusal (Byte × List Byte)} {q : Byte} {d : List Byte} (h : r = .ok (q, d))
    (k : Byte → List Byte → Out) : withExtracted r k = k q d := by subst h; rfl

/-- A frame just placed in the transmit buffer reads back whole, and the bytes beyond it are the old ones. -/
theorem putTx_reads (s : State) (f : List Byte) :
    bufRead (s.putTx f).txBuf 0 (s.putTx f).txLen = some f ∧
    ∀ j, f.length ≤ j → (s.putTx f).txBuf.read j = s.txBuf.read j :=
  ⟨bufRead_bufWrite _ _ _, fun _ h => read_bufWrite_outside _ _ _ (.inr (by omega))⟩

/-- Data just returned reads back whole, and the bytes beyond it are the old ones. -/
theorem putOut_reads (s : State) (d : List Byte) :
    bufRead (s.putOut d).hostOut 0 (s.putOut d).outLen = some d ∧
    ∀ j, d.length ≤ j → (s.putOut d).hostOut.read j = s.hostOut.read j :=
  ⟨bufRead_bufWrite _ _ _, fun _ h => read_bufWrite_outside _ _ _ (.inr (by omega))⟩

end Sys2Proof.Machine
end

