-- ==== Sys2Proof/Laws/State.lean ====
section
/-! SUPPORT. The sizes of Config as numbers, and one lemma per field per named update of State, so that no later proof
unfolds a record update. -/

namespace Sys2Proof.Machine

/-! R8: the derived sizes, as numbers. -/

theorem minFrame_eq : Config.minFrame = 5 := rfl
theorem maxFrame_eq : Config.maxFrame = 205 := rfl
theorem frameBufCap_eq : Config.frameBufCap = 205 := rfl
theorem hostBufCap_eq : Config.hostBufCap = 205 := rfl

/-! R12, R160: `finish` writes `RESULT` and `CTRL`, and draws a value for `ATTEMPT`. -/

@[simp] theorem State.finish_connected (s : State) (r : Result) : (s.finish r).connected = s.connected := rfl
@[simp] theorem State.finish_txSeq (s : State) (r : Result) : (s.finish r).txSeq = s.txSeq := rfl
@[simp] theorem State.finish_rxLast (s : State) (r : Result) : (s.finish r).rxLast = s.rxLast := rfl
@[simp] theorem State.finish_counters (s : State) (r : Result) : (s.finish r).counters = s.counters := rfl
@[simp] theorem State.finish_chanHandle (s : State) (r : Result) : (s.finish r).chanHandle = s.chanHandle := rfl
@[simp] theorem State.finish_txBuf (s : State) (r : Result) : (s.finish r).txBuf = s.txBuf := rfl
@[simp] theorem State.finish_txLen (s : State) (r : Result) : (s.finish r).txLen = s.txLen := rfl
@[simp] theorem State.finish_rxBuf (s : State) (r : Result) : (s.finish r).rxBuf = s.rxBuf := rfl
@[simp] theorem State.finish_rxLen (s : State) (r : Result) : (s.finish r).rxLen = s.rxLen := rfl
@[simp] theorem State.finish_hostIn (s : State) (r : Result) : (s.finish r).hostIn = s.hostIn := rfl
@[simp] theorem State.finish_hostOut (s : State) (r : Result) : (s.finish r).hostOut = s.hostOut := rfl
@[simp] theorem State.finish_outLen (s : State) (r : Result) : (s.finish r).outLen = s.outLen := rfl
@[simp] theorem State.finish_deadline (s : State) (r : Result) : (s.finish r).deadline = s.deadline := rfl
@[simp] theorem State.finish_ctrl (s : State) (r : Result) : (s.finish r).ctrl = .idle := rfl
@[simp] theorem State.finish_attempt (s : State) (r : Result) : (s.finish r).attempt = Config.idleAttempt s.draws := rfl
@[simp] theorem State.finish_result (s : State) (r : Result) : (s.finish r).result = r := rfl
@[simp] theorem State.finish_refused (s : State) (r : Result) : (s.finish r).refused = s.refused := rfl
@[simp] theorem State.finish_params (s : State) (r : Result) : (s.finish r).params = s.params := rfl
@[simp] theorem State.finish_lastNow (s : State) (r : Result) : (s.finish r).lastNow = s.lastNow := rfl
@[simp] theorem State.finish_inputs (s : State) (r : Result) : (s.finish r).inputs = s.inputs := rfl
@[simp] theorem State.finish_trace (s : State) (r : Result) : (s.finish r).trace = s.trace := rfl
@[simp] theorem State.finish_draws (s : State) (r : Result) : (s.finish r).draws = s.draws + 1 := rfl

/-! R33: placing a frame writes `TX_BUF` and `TX_LEN`. -/

@[simp] theorem State.putTx_connected (s : State) (f : List Byte) : (s.putTx f).connected = s.connected := rfl
@[simp] theorem State.putTx_txSeq (s : State) (f : List Byte) : (s.putTx f).txSeq = s.txSeq := rfl
@[simp] theorem State.putTx_rxLast (s : State) (f : List Byte) : (s.putTx f).rxLast = s.rxLast := rfl
@[simp] theorem State.putTx_counters (s : State) (f : List Byte) : (s.putTx f).counters = s.counters := rfl
@[simp] theorem State.putTx_chanHandle (s : State) (f : List Byte) : (s.putTx f).chanHandle = s.chanHandle := rfl
@[simp] theorem State.putTx_txBuf (s : State) (f : List Byte) : (s.putTx f).txBuf = bufWrite s.txBuf 0 f := rfl
@[simp] theorem State.putTx_txLen (s : State) (f : List Byte) : (s.putTx f).txLen = f.length := rfl
@[simp] theorem State.putTx_rxBuf (s : State) (f : List Byte) : (s.putTx f).rxBuf = s.rxBuf := rfl
@[simp] theorem State.putTx_rxLen (s : State) (f : List Byte) : (s.putTx f).rxLen = s.rxLen := rfl
@[simp] theorem State.putTx_hostIn (s : State) (f : List Byte) : (s.putTx f).hostIn = s.hostIn := rfl
@[simp] theorem State.putTx_hostOut (s : State) (f : List Byte) : (s.putTx f).hostOut = s.hostOut := rfl
@[simp] theorem State.putTx_outLen (s : State) (f : List Byte) : (s.putTx f).outLen = s.outLen := rfl
@[simp] theorem State.putTx_deadline (s : State) (f : List Byte) : (s.putTx f).deadline = s.deadline := rfl
@[simp] theorem State.putTx_ctrl (s : State) (f : List Byte) : (s.putTx f).ctrl = s.ctrl := rfl
@[simp] theorem State.putTx_attempt (s : State) (f : List Byte) : (s.putTx f).attempt = s.attempt := rfl
@[simp] theorem State.putTx_result (s : State) (f : List Byte) : (s.putTx f).result = s.result := rfl
@[simp] theorem State.putTx_refused (s : State) (f : List Byte) : (s.putTx f).refused = s.refused := rfl
@[simp] theorem State.putTx_params (s : State) (f : List Byte) : (s.putTx f).params = s.params := rfl
@[simp] theorem State.putTx_lastNow (s : State) (f : List Byte) : (s.putTx f).lastNow = s.lastNow := rfl
@[simp] theorem State.putTx_inputs (s : State) (f : List Byte) : (s.putTx f).inputs = s.inputs := rfl
@[simp] theorem State.putTx_trace (s : State) (f : List Byte) : (s.putTx f).trace = s.trace := rfl
@[simp] theorem State.putTx_draws (s : State) (f : List Byte) : (s.putTx f).draws = s.draws := rfl

/-! R36: returning data writes `HOST_OUT` and `OUT_LEN`. -/

@[simp] theorem State.putOut_connected (s : State) (d : List Byte) : (s.putOut d).connected = s.connected := rfl
@[simp] theorem State.putOut_txSeq (s : State) (d : List Byte) : (s.putOut d).txSeq = s.txSeq := rfl
@[simp] theorem State.putOut_rxLast (s : State) (d : List Byte) : (s.putOut d).rxLast = s.rxLast := rfl
@[simp] theorem State.putOut_counters (s : State) (d : List Byte) : (s.putOut d).counters = s.counters := rfl
@[simp] theorem State.putOut_chanHandle (s : State) (d : List Byte) : (s.putOut d).chanHandle = s.chanHandle := rfl
@[simp] theorem State.putOut_txBuf (s : State) (d : List Byte) : (s.putOut d).txBuf = s.txBuf := rfl
@[simp] theorem State.putOut_txLen (s : State) (d : List Byte) : (s.putOut d).txLen = s.txLen := rfl
@[simp] theorem State.putOut_rxBuf (s : State) (d : List Byte) : (s.putOut d).rxBuf = s.rxBuf := rfl
@[simp] theorem State.putOut_rxLen (s : State) (d : List Byte) : (s.putOut d).rxLen = s.rxLen := rfl
@[simp] theorem State.putOut_hostIn (s : State) (d : List Byte) : (s.putOut d).hostIn = s.hostIn := rfl
@[simp] theorem State.putOut_hostOut (s : State) (d : List Byte) : (s.putOut d).hostOut = bufWrite s.hostOut 0 d := rfl
@[simp] theorem State.putOut_outLen (s : State) (d : List Byte) : (s.putOut d).outLen = d.length := rfl
@[simp] theorem State.putOut_deadline (s : State) (d : List Byte) : (s.putOut d).deadline = s.deadline := rfl
@[simp] theorem State.putOut_ctrl (s : State) (d : List Byte) : (s.putOut d).ctrl = s.ctrl := rfl
@[simp] theorem State.putOut_attempt (s : State) (d : List Byte) : (s.putOut d).attempt = s.attempt := rfl
@[simp] theorem State.putOut_result (s : State) (d : List Byte) : (s.putOut d).result = s.result := rfl
@[simp] theorem State.putOut_refused (s : State) (d : List Byte) : (s.putOut d).refused = s.refused := rfl
@[simp] theorem State.putOut_params (s : State) (d : List Byte) : (s.putOut d).params = s.params := rfl
@[simp] theorem State.putOut_lastNow (s : State) (d : List Byte) : (s.putOut d).lastNow = s.lastNow := rfl
@[simp] theorem State.putOut_inputs (s : State) (d : List Byte) : (s.putOut d).inputs = s.inputs := rfl
@[simp] theorem State.putOut_trace (s : State) (d : List Byte) : (s.putOut d).trace = s.trace := rfl
@[simp] theorem State.putOut_draws (s : State) (d : List Byte) : (s.putOut d).draws = s.draws := rfl

/-! R98: the framer writes `RX_BUF` and `RX_LEN`. -/

@[simp] theorem State.appendRx_connected (s : State) (ys : List Byte) : (s.appendRx ys).connected = s.connected := rfl
@[simp] theorem State.appendRx_txSeq (s : State) (ys : List Byte) : (s.appendRx ys).txSeq = s.txSeq := rfl
@[simp] theorem State.appendRx_rxLast (s : State) (ys : List Byte) : (s.appendRx ys).rxLast = s.rxLast := rfl
@[simp] theorem State.appendRx_counters (s : State) (ys : List Byte) : (s.appendRx ys).counters = s.counters := rfl
@[simp] theorem State.appendRx_chanHandle (s : State) (ys : List Byte) : (s.appendRx ys).chanHandle = s.chanHandle := rfl
@[simp] theorem State.appendRx_txBuf (s : State) (ys : List Byte) : (s.appendRx ys).txBuf = s.txBuf := rfl
@[simp] theorem State.appendRx_txLen (s : State) (ys : List Byte) : (s.appendRx ys).txLen = s.txLen := rfl
@[simp] theorem State.appendRx_rxBuf (s : State) (ys : List Byte) : (s.appendRx ys).rxBuf = bufWrite s.rxBuf s.rxLen ys := rfl
@[simp] theorem State.appendRx_rxLen (s : State) (ys : List Byte) : (s.appendRx ys).rxLen = s.rxLen + ys.length := rfl
@[simp] theorem State.appendRx_hostIn (s : State) (ys : List Byte) : (s.appendRx ys).hostIn = s.hostIn := rfl
@[simp] theorem State.appendRx_hostOut (s : State) (ys : List Byte) : (s.appendRx ys).hostOut = s.hostOut := rfl
@[simp] theorem State.appendRx_outLen (s : State) (ys : List Byte) : (s.appendRx ys).outLen = s.outLen := rfl
@[simp] theorem State.appendRx_deadline (s : State) (ys : List Byte) : (s.appendRx ys).deadline = s.deadline := rfl
@[simp] theorem State.appendRx_ctrl (s : State) (ys : List Byte) : (s.appendRx ys).ctrl = s.ctrl := rfl
@[simp] theorem State.appendRx_attempt (s : State) (ys : List Byte) : (s.appendRx ys).attempt = s.attempt := rfl
@[simp] theorem State.appendRx_result (s : State) (ys : List Byte) : (s.appendRx ys).result = s.result := rfl
@[simp] theorem State.appendRx_refused (s : State) (ys : List Byte) : (s.appendRx ys).refused = s.refused := rfl
@[simp] theorem State.appendRx_params (s : State) (ys : List Byte) : (s.appendRx ys).params = s.params := rfl
@[simp] theorem State.appendRx_lastNow (s : State) (ys : List Byte) : (s.appendRx ys).lastNow = s.lastNow := rfl
@[simp] theorem State.appendRx_inputs (s : State) (ys : List Byte) : (s.appendRx ys).inputs = s.inputs := rfl
@[simp] theorem State.appendRx_trace (s : State) (ys : List Byte) : (s.appendRx ys).trace = s.trace := rfl
@[simp] theorem State.appendRx_draws (s : State) (ys : List Byte) : (s.appendRx ys).draws = s.draws := rfl

/-! R14: an exchange touches no register of the block. -/

@[simp] theorem State.exchange_connected (s : State) (c : Call) (a : Answer) : (s.exchange c a).connected = s.connected := rfl
@[simp] theorem State.exchange_txSeq (s : State) (c : Call) (a : Answer) : (s.exchange c a).txSeq = s.txSeq := rfl
@[simp] theorem State.exchange_rxLast (s : State) (c : Call) (a : Answer) : (s.exchange c a).rxLast = s.rxLast := rfl
@[simp] theorem State.exchange_counters (s : State) (c : Call) (a : Answer) : (s.exchange c a).counters = s.counters := rfl
@[simp] theorem State.exchange_chanHandle (s : State) (c : Call) (a : Answer) : (s.exchange c a).chanHandle = s.chanHandle := rfl
@[simp] theorem State.exchange_txBuf (s : State) (c : Call) (a : Answer) : (s.exchange c a).txBuf = s.txBuf := rfl
@[simp] theorem State.exchange_txLen (s : State) (c : Call) (a : Answer) : (s.exchange c a).txLen = s.txLen := rfl
@[simp] theorem State.exchange_rxBuf (s : State) (c : Call) (a : Answer) : (s.exchange c a).rxBuf = s.rxBuf := rfl
@[simp] theorem State.exchange_rxLen (s : State) (c : Call) (a : Answer) : (s.exchange c a).rxLen = s.rxLen := rfl
@[simp] theorem State.exchange_hostIn (s : State) (c : Call) (a : Answer) : (s.exchange c a).hostIn = s.hostIn := rfl
@[simp] theorem State.exchange_hostOut (s : State) (c : Call) (a : Answer) : (s.exchange c a).hostOut = s.hostOut := rfl
@[simp] theorem State.exchange_outLen (s : State) (c : Call) (a : Answer) : (s.exchange c a).outLen = s.outLen := rfl
@[simp] theorem State.exchange_deadline (s : State) (c : Call) (a : Answer) : (s.exchange c a).deadline = s.deadline := rfl
@[simp] theorem State.exchange_ctrl (s : State) (c : Call) (a : Answer) : (s.exchange c a).ctrl = s.ctrl := rfl
@[simp] theorem State.exchange_attempt (s : State) (c : Call) (a : Answer) : (s.exchange c a).attempt = s.attempt := rfl
@[simp] theorem State.exchange_result (s : State) (c : Call) (a : Answer) : (s.exchange c a).result = s.result := rfl
@[simp] theorem State.exchange_refused (s : State) (c : Call) (a : Answer) : (s.exchange c a).refused = s.refused := rfl
@[simp] theorem State.exchange_params (s : State) (c : Call) (a : Answer) : (s.exchange c a).params = s.params := rfl
@[simp] theorem State.exchange_lastNow (s : State) (c : Call) (a : Answer) : (s.exchange c a).lastNow = a.clock s.lastNow := rfl
@[simp] theorem State.exchange_inputs (s : State) (c : Call) (a : Answer) : (s.exchange c a).inputs = s.inputs := rfl
@[simp] theorem State.exchange_trace (s : State) (c : Call) (a : Answer) : (s.exchange c a).trace = { call := c, answer := a } :: s.trace := rfl
@[simp] theorem State.exchange_draws (s : State) (c : Call) (a : Answer) : (s.exchange c a).draws = s.draws := rfl

/-! R149, R177: what a successful `CONNECT` resets. -/

@[simp] theorem State.openSession_connected (s : State) (h : Handle) : (s.openSession h).connected = true := rfl
@[simp] theorem State.openSession_txSeq (s : State) (h : Handle) : (s.openSession h).txSeq = 0 := rfl
@[simp] theorem State.openSession_rxLast (s : State) (h : Handle) : (s.openSession h).rxLast = u8 Config.rxNone := rfl
@[simp] theorem State.openSession_counters (s : State) (h : Handle) : (s.openSession h).counters = Counters.zero := rfl
@[simp] theorem State.openSession_chanHandle (s : State) (h : Handle) : (s.openSession h).chanHandle = some h := rfl
@[simp] theorem State.openSession_txBuf (s : State) (h : Handle) : (s.openSession h).txBuf = s.txBuf := rfl
@[simp] theorem State.openSession_txLen (s : State) (h : Handle) : (s.openSession h).txLen = s.txLen := rfl
@[simp] theorem State.openSession_rxBuf (s : State) (h : Handle) : (s.openSession h).rxBuf = s.rxBuf := rfl
@[simp] theorem State.openSession_rxLen (s : State) (h : Handle) : (s.openSession h).rxLen = s.rxLen := rfl
@[simp] theorem State.openSession_hostIn (s : State) (h : Handle) : (s.openSession h).hostIn = s.hostIn := rfl
@[simp] theorem State.openSession_hostOut (s : State) (h : Handle) : (s.openSession h).hostOut = s.hostOut := rfl
@[simp] theorem State.openSession_outLen (s : State) (h : Handle) : (s.openSession h).outLen = s.outLen := rfl
@[simp] theorem State.openSession_deadline (s : State) (h : Handle) : (s.openSession h).deadline = s.deadline := rfl
@[simp] theorem State.openSession_ctrl (s : State) (h : Handle) : (s.openSession h).ctrl = s.ctrl := rfl
@[simp] theorem State.openSession_attempt (s : State) (h : Handle) : (s.openSession h).attempt = s.attempt := rfl
@[simp] theorem State.openSession_result (s : State) (h : Handle) : (s.openSession h).result = s.result := rfl
@[simp] theorem State.openSession_refused (s : State) (h : Handle) : (s.openSession h).refused = s.refused := rfl
@[simp] theorem State.openSession_params (s : State) (h : Handle) : (s.openSession h).params = s.params := rfl
@[simp] theorem State.openSession_lastNow (s : State) (h : Handle) : (s.openSession h).lastNow = s.lastNow := rfl
@[simp] theorem State.openSession_inputs (s : State) (h : Handle) : (s.openSession h).inputs = s.inputs := rfl
@[simp] theorem State.openSession_trace (s : State) (h : Handle) : (s.openSession h).trace = s.trace := rfl
@[simp] theorem State.openSession_draws (s : State) (h : Handle) : (s.openSession h).draws = s.draws := rfl

/-! R150: what `DISCONNECT` clears. -/

@[simp] theorem State.closeSession_connected (s : State) : s.closeSession.connected = false := rfl
@[simp] theorem State.closeSession_txSeq (s : State) : s.closeSession.txSeq = s.txSeq := rfl
@[simp] theorem State.closeSession_rxLast (s : State) : s.closeSession.rxLast = s.rxLast := rfl
@[simp] theorem State.closeSession_counters (s : State) : s.closeSession.counters = s.counters := rfl
@[simp] theorem State.closeSession_chanHandle (s : State) : s.closeSession.chanHandle = none := rfl
@[simp] theorem State.closeSession_txBuf (s : State) : s.closeSession.txBuf = s.txBuf := rfl
@[simp] theorem State.closeSession_txLen (s : State) : s.closeSession.txLen = s.txLen := rfl
@[simp] theorem State.closeSession_rxBuf (s : State) : s.closeSession.rxBuf = s.rxBuf := rfl
@[simp] theorem State.closeSession_rxLen (s : State) : s.closeSession.rxLen = s.rxLen := rfl
@[simp] theorem State.closeSession_hostIn (s : State) : s.closeSession.hostIn = s.hostIn := rfl
@[simp] theorem State.closeSession_hostOut (s : State) : s.closeSession.hostOut = s.hostOut := rfl
@[simp] theorem State.closeSession_outLen (s : State) : s.closeSession.outLen = s.outLen := rfl
@[simp] theorem State.closeSession_deadline (s : State) : s.closeSession.deadline = s.deadline := rfl
@[simp] theorem State.closeSession_ctrl (s : State) : s.closeSession.ctrl = s.ctrl := rfl
@[simp] theorem State.closeSession_attempt (s : State) : s.closeSession.attempt = s.attempt := rfl
@[simp] theorem State.closeSession_result (s : State) : s.closeSession.result = s.result := rfl
@[simp] theorem State.closeSession_refused (s : State) : s.closeSession.refused = s.refused := rfl
@[simp] theorem State.closeSession_params (s : State) : s.closeSession.params = s.params := rfl
@[simp] theorem State.closeSession_lastNow (s : State) : s.closeSession.lastNow = s.lastNow := rfl
@[simp] theorem State.closeSession_inputs (s : State) : s.closeSession.inputs = s.inputs := rfl
@[simp] theorem State.closeSession_trace (s : State) : s.closeSession.trace = s.trace := rfl
@[simp] theorem State.closeSession_draws (s : State) : s.closeSession.draws = s.draws := rfl

/-! R72: the host's command word is the next item taken in. -/

@[simp] theorem State.withCommand_connected (s : State) (w : Word) : (s.withCommand w).connected = s.connected := rfl
@[simp] theorem State.withCommand_txSeq (s : State) (w : Word) : (s.withCommand w).txSeq = s.txSeq := rfl
@[simp] theorem State.withCommand_rxLast (s : State) (w : Word) : (s.withCommand w).rxLast = s.rxLast := rfl
@[simp] theorem State.withCommand_counters (s : State) (w : Word) : (s.withCommand w).counters = s.counters := rfl
@[simp] theorem State.withCommand_chanHandle (s : State) (w : Word) : (s.withCommand w).chanHandle = s.chanHandle := rfl
@[simp] theorem State.withCommand_txBuf (s : State) (w : Word) : (s.withCommand w).txBuf = s.txBuf := rfl
@[simp] theorem State.withCommand_txLen (s : State) (w : Word) : (s.withCommand w).txLen = s.txLen := rfl
@[simp] theorem State.withCommand_rxBuf (s : State) (w : Word) : (s.withCommand w).rxBuf = s.rxBuf := rfl
@[simp] theorem State.withCommand_rxLen (s : State) (w : Word) : (s.withCommand w).rxLen = s.rxLen := rfl
@[simp] theorem State.withCommand_hostIn (s : State) (w : Word) : (s.withCommand w).hostIn = s.hostIn := rfl
@[simp] theorem State.withCommand_hostOut (s : State) (w : Word) : (s.withCommand w).hostOut = s.hostOut := rfl
@[simp] theorem State.withCommand_outLen (s : State) (w : Word) : (s.withCommand w).outLen = s.outLen := rfl
@[simp] theorem State.withCommand_deadline (s : State) (w : Word) : (s.withCommand w).deadline = s.deadline := rfl
@[simp] theorem State.withCommand_ctrl (s : State) (w : Word) : (s.withCommand w).ctrl = .idle := rfl
@[simp] theorem State.withCommand_attempt (s : State) (w : Word) : (s.withCommand w).attempt = s.attempt := rfl
@[simp] theorem State.withCommand_result (s : State) (w : Word) : (s.withCommand w).result = s.result := rfl
@[simp] theorem State.withCommand_refused (s : State) (w : Word) : (s.withCommand w).refused = false := rfl
@[simp] theorem State.withCommand_params (s : State) (w : Word) : (s.withCommand w).params = s.params := rfl
@[simp] theorem State.withCommand_lastNow (s : State) (w : Word) : (s.withCommand w).lastNow = s.lastNow := rfl
@[simp] theorem State.withCommand_inputs (s : State) (w : Word) : (s.withCommand w).inputs = .command w :: s.inputs := rfl
@[simp] theorem State.withCommand_trace (s : State) (w : Word) : (s.withCommand w).trace = s.trace := rfl
@[simp] theorem State.withCommand_draws (s : State) (w : Word) : (s.withCommand w).draws = s.draws := rfl

/-! R136, R137, R138: accepting a frame writes `RX_LAST` only, and only on a new block. -/

@[simp] theorem State.accept_connected (s : State) (p : AckPath) (q : Byte) : (s.accept p q).connected = s.connected := rfl
@[simp] theorem State.accept_txSeq (s : State) (p : AckPath) (q : Byte) : (s.accept p q).txSeq = s.txSeq := rfl
@[simp] theorem State.accept_counters (s : State) (p : AckPath) (q : Byte) : (s.accept p q).counters = s.counters := rfl
@[simp] theorem State.accept_chanHandle (s : State) (p : AckPath) (q : Byte) : (s.accept p q).chanHandle = s.chanHandle := rfl
@[simp] theorem State.accept_txBuf (s : State) (p : AckPath) (q : Byte) : (s.accept p q).txBuf = s.txBuf := rfl
@[simp] theorem State.accept_txLen (s : State) (p : AckPath) (q : Byte) : (s.accept p q).txLen = s.txLen := rfl
@[simp] theorem State.accept_rxBuf (s : State) (p : AckPath) (q : Byte) : (s.accept p q).rxBuf = s.rxBuf := rfl
@[simp] theorem State.accept_rxLen (s : State) (p : AckPath) (q : Byte) : (s.accept p q).rxLen = s.rxLen := rfl
@[simp] theorem State.accept_hostIn (s : State) (p : AckPath) (q : Byte) : (s.accept p q).hostIn = s.hostIn := rfl
@[simp] theorem State.accept_hostOut (s : State) (p : AckPath) (q : Byte) : (s.accept p q).hostOut = s.hostOut := rfl
@[simp] theorem State.accept_outLen (s : State) (p : AckPath) (q : Byte) : (s.accept p q).outLen = s.outLen := rfl
@[simp] theorem State.accept_deadline (s : State) (p : AckPath) (q : Byte) : (s.accept p q).deadline = s.deadline := rfl
@[simp] theorem State.accept_ctrl (s : State) (p : AckPath) (q : Byte) : (s.accept p q).ctrl = s.ctrl := rfl
@[simp] theorem State.accept_attempt (s : State) (p : AckPath) (q : Byte) : (s.accept p q).attempt = s.attempt := rfl
@[simp] theorem State.accept_result (s : State) (p : AckPath) (q : Byte) : (s.accept p q).result = s.result := rfl
@[simp] theorem State.accept_refused (s : State) (p : AckPath) (q : Byte) : (s.accept p q).refused = s.refused := rfl
@[simp] theorem State.accept_params (s : State) (p : AckPath) (q : Byte) : (s.accept p q).params = s.params := rfl
@[simp] theorem State.accept_lastNow (s : State) (p : AckPath) (q : Byte) : (s.accept p q).lastNow = s.lastNow := rfl
@[simp] theorem State.accept_inputs (s : State) (p : AckPath) (q : Byte) : (s.accept p q).inputs = s.inputs := rfl
@[simp] theorem State.accept_trace (s : State) (p : AckPath) (q : Byte) : (s.accept p q).trace = s.trace := rfl
@[simp] theorem State.accept_draws (s : State) (p : AckPath) (q : Byte) : (s.accept p q).draws = s.draws := rfl

theorem State.accept_newBlock_rxLast (s : State) (q : Byte) : (s.accept .newBlock q).rxLast = q := rfl
theorem State.accept_duplicate (s : State) (q : Byte) : s.accept .duplicate q = s := rfl
theorem State.accept_outOfSequence (s : State) (q : Byte) : s.accept .outOfSequence q = s := rfl

end Sys2Proof.Machine
end

