-- ==== Sys2Proof/Laws/Ops.lean ====
section
/-! SUPPORT. What each shared operation can do, once: the end of a command, the buffer operands, the exchange with the
environment, and the step. -/

namespace Sys2Proof.Machine

/-! ### The end of a command and the buffer operands -/

theorem done_eq (r : Result) (s : State) : done r s = .next (s.finish r) := rfl

theorem whenConnected_connected {s : State} (h : s.connected = true) (k : Out) : whenConnected s k = k := by
  simp [whenConnected, h]

theorem whenConnected_disconnected {s : State} (h : s.connected = false) (k : Out) :
    whenConnected s k = .next (s.finish (Result.plain .usageError)) := by
  simp [whenConnected, h, done]

theorem withHostIn_written {n : Nat} {s : State} {xs : List Byte} (h : bufRead s.hostIn 0 n = some xs)
    (k : List Byte → Out) : withHostIn n s k = k xs := by simp [withHostIn, h]

theorem withHostIn_unwritten {n : Nat} {s : State} (h : bufRead s.hostIn 0 n = none) (k : List Byte → Out) :
    withHostIn n s k = .refused .unwrittenHostInput := by simp [withHostIn, h]

theorem withRxFrame_written {n : Nat} {s : State} {f : List Byte} (h : bufRead s.rxBuf 0 n = some f)
    (k : List Byte → Out) : withRxFrame n s k = k f := by simp [withRxFrame, h]

theorem withHandle_some {s : State} {h : Handle} (hh : s.chanHandle = some h) (k : Handle → Waiting) :
    s.withHandle k = k h := by simp [State.withHandle, hh]

theorem writeCall_written {s : State} {h : Handle} {xs : List Byte} (hh : s.chanHandle = some h)
    (hx : bufRead s.txBuf 0 s.txLen = some xs) : s.writeCall = .call (.chanWrite h xs) := by
  simp [State.writeCall, withHandle_some hh, hx]

/-! ### Where a step takes place -/

theorem takesIn_of_inputs {s : State} {i : Instr} {rest : List Input} (hc : s.ctrl = .idle)
    (hi : s.inputs = .command (encode i) :: rest) : s.takesIn i := ⟨hc, rest, hi⟩

theorem inFramerOf_now {s : State} {c : Caller} {dl : Nat} {ph : Phase} (h : s.ctrl = .framerT c dl ph) :
    s.inFramerOf c := ⟨dl, ph, .inl h⟩

theorem inFramerOf_read {s : State} {c : Caller} {dl : Nat} {ph : Phase} (h : s.ctrl = .framerR c dl ph) :
    s.inFramerOf c := ⟨dl, ph, .inr h⟩

theorem commandEnds_running {s : State} (h : s.ctrl ≠ .idle) (u : State) (r : Result) : commandEnds s (u.finish r) :=
  ⟨rfl, .inl h⟩

theorem commandEnds_issued {s : State} {w : Word} {rest : List Input} (h : s.inputs = .command w :: rest) (u : State)
    (r : Result) : commandEnds s (u.finish r) := ⟨rfl, .inr ⟨w, rest, h⟩⟩

/-! ### The exchange with the environment -/

theorem admits_chanOpen {n : Nat} {cfg : Config.ChannelConfig} {a : Answer} :
    (Call.chanOpen cfg).admits n a = true ↔ ∃ r, a = .chanOpen r := by
  cases a <;> simp [Call.admits]

theorem admits_chanClose {n : Nat} {h : Handle} {a : Answer} :
    (Call.chanClose h).admits n a = true ↔ ∃ r, a = .chanClose r := by
  cases a <;> simp [Call.admits]

theorem admits_chanWrite {n : Nat} {h : Handle} {xs : List Byte} {a : Answer} :
    (Call.chanWrite h xs).admits n a = true ↔ ∃ k : Int, a = .chanWrite k ∧ k ≤ (xs.length : Int) := by
  cases a <;> simp [Call.admits]

theorem admits_chanRead {n : Nat} {h : Handle} {m : Nat} {a : Answer} :
    (Call.chanRead h m).admits n a = true ↔
      (∃ ys, a = .chanRead (.bytes ys) ∧ ys.length ≤ m) ∨ ∃ c : Int, a = .chanRead (.error c) ∧ c < 0 := by
  cases a with
  | chanRead r => cases r <;> simp [Call.admits]
  | _ => simp [Call.admits]

theorem admits_now {n : Nat} {a : Answer} : Call.now.admits n a = true ↔ ∃ t, a = .now t ∧ n ≤ t := by
  cases a <;> simp [Call.admits]

/-- An admitted answer never sets the clock back. -/
theorem clock_le_of_admits {n : Nat} {c : Call} {a : Answer} (h : c.admits n a = true) : n ≤ a.clock n := by
  cases c with
  | now =>
    obtain ⟨t, rfl, ht⟩ := admits_now.1 h
    exact ht
  | chanOpen _ => obtain ⟨r, rfl⟩ := admits_chanOpen.1 h; exact le_rfl
  | chanClose _ => obtain ⟨r, rfl⟩ := admits_chanClose.1 h; exact le_rfl
  | chanWrite _ _ => obtain ⟨k, rfl, -⟩ := admits_chanWrite.1 h; exact le_rfl
  | chanRead _ _ =>
    rcases admits_chanRead.1 h with ⟨ys, rfl, -⟩ | ⟨e, rfl, -⟩ <;> exact le_rfl

/-! ### The answer at each control point -/

theorem afterAnswer_lOpen {s : State} (h : s.ctrl = .lOpen) (r : OpenAnswer) :
    afterAnswer (.chanOpen r) s = connectOpened r s := by simp [afterAnswer, h]

theorem afterAnswer_lClose {s : State} (h : s.ctrl = .lClose) (r : CloseAnswer) :
    afterAnswer (.chanClose r) s = disconnectClosed r s := by simp [afterAnswer, h]

theorem afterAnswer_tSet {s : State} {secs : Nat} (h : s.ctrl = .tSet secs) (t : Nat) :
    afterAnswer (.now t) s = setDeadlineNow secs t s := by simp [afterAnswer, h]

theorem afterAnswer_tElapsed {s : State} (h : s.ctrl = .tElapsed) (t : Nat) :
    afterAnswer (.now t) s = elapsedNow t s := by simp [afterAnswer, h]

theorem afterAnswer_fCmdT {s : State} {secs : Nat} (h : s.ctrl = .fCmdT secs) (t : Nat) :
    afterAnswer (.now t) s = readFrameNow secs t s := by simp [afterAnswer, h]

theorem afterAnswer_framerT {s : State} {c : Caller} {dl : Nat} {ph : Phase} (h : s.ctrl = .framerT c dl ph) (t : Nat) :
    afterAnswer (.now t) s = framerGoesOn c dl (framerNow dl ph t s) := by simp [afterAnswer, h]

theorem afterAnswer_framerR {s : State} {c : Caller} {dl : Nat} {ph : Phase} (h : s.ctrl = .framerR c dl ph)
    (r : ReadAnswer) : afterAnswer (.chanRead r) s = framerGoesOn c dl (framerRead ph r s) := by simp [afterAnswer, h]

theorem afterAnswer_sWrite {s : State} {len m : Nat} (h : s.ctrl = .sWrite len m) (k : Int) :
    afterAnswer (.chanWrite k) s = sendWrote len m k s := by simp [afterAnswer, h]

theorem afterAnswer_sDl {s : State} {len m : Nat} (h : s.ctrl = .sDl len m) (t : Nat) :
    afterAnswer (.now t) s = sendNow len m t s := by simp [afterAnswer, h]

theorem afterAnswer_rDl {s : State} {ms m e : Nat} (h : s.ctrl = .rDl ms m e) (t : Nat) :
    afterAnswer (.now t) s = receiveNow ms m e t s := by simp [afterAnswer, h]

theorem afterAnswer_rAck {s : State} {ms m e : Nat} {path : AckPath} {f : Byte} {d : List Byte}
    (h : s.ctrl = .rAck ms m e path f d) (k : Int) : afterAnswer (.chanWrite k) s = ackWrote ms m e path d k s := by
  simp [afterAnswer, h]

/-- The framer after a clock answer that has reached the deadline. -/
theorem framerNow_elapsed {dl t : Nat} (h : dl ≤ t) (ph : Phase) (s : State) :
    framerNow dl ph t s = .returns .timeout s := by simp [framerNow, elapsed, h]

/-- The framer after a clock answer before the deadline, with room in the buffer. -/
theorem framerNow_room {dl t : Nat} (h : t < dl) {ph : Phase} {s : State} (hr : s.rxLen < 205) :
    framerNow dl ph t s = .waitRead ph s := by
  cases ph <;> simp [framerNow, elapsed, Nat.not_le.2 h]
  omega

/-- The body loop after a clock answer before the deadline, with the buffer full. -/
theorem framerNow_full {dl t : Nat} (h : t < dl) (g : Nat) {s : State} (hr : s.rxLen = 205) :
    framerNow dl (.body g) t s = .returns .overflow s := by
  simp [framerNow, elapsed, Nat.not_le.2 h, hr]

/-! ### The step -/

/-- `resume` on an admitted answer. -/
theorem resume_admitted {s : State} {c : Call} {a : Answer} (hw : s.waiting = .call c)
    (ha : c.admits s.lastNow a = true) : resume a s = afterAnswer a (s.exchange c a) := by
  simp [resume, hw, ha]

/-- Everything `resume` can do. -/
theorem resume_cases (a : Answer) (s : State) :
    (∃ c, s.waiting = .call c ∧ c.admits s.lastNow a = true ∧ resume a s = afterAnswer a (s.exchange c a)) ∨
    (∃ f, s.waiting = .broken f ∧ resume a s = .fault f) ∨
    (resume a s = .refused .answerOutsideContract ∧ ∀ c, s.waiting = .call c → c.admits s.lastNow a = false) := by
  rcases h : s.waiting with _ | c | f
  · exact .inr (.inr ⟨by simp [resume, h], by simp⟩)
  · rcases h' : c.admits s.lastNow a with _ | _
    · exact .inr (.inr ⟨by simp [resume, h, h'], by rintro _ ⟨⟩; exact h'⟩)
    · exact .inl ⟨c, rfl, h', resume_admitted h h'⟩
  · exact .inr (.inl ⟨f, rfl, by simp [resume, h]⟩)

/-- Everything a step can do. -/
theorem step_cases (s : State) :
    (s.refused = true ∧ step s = .refused .alreadyRefused) ∨
    (s.refused = false ∧ s.inputs = [] ∧ step s = .next s) ∨
    (s.refused = false ∧ ∃ x xs, s.inputs = x :: xs ∧ step s = accept x { s with inputs := xs }) := by
  rcases hr : s.refused with _ | _
  · rcases hi : s.inputs with _ | ⟨x, xs⟩
    · exact .inr (.inl ⟨rfl, rfl, by simp [step, acceptNext, hr, hi]⟩)
    · exact .inr (.inr ⟨rfl, x, xs, rfl, by simp [step, acceptNext, hr, hi]⟩)
  · exact .inl ⟨rfl, by simp [step, hr]⟩

/-- A step that takes in an item. -/
theorem step_accepts {s : State} {x : Input} {xs : List Input} (hr : s.refused = false) (hi : s.inputs = x :: xs) :
    step s = accept x { s with inputs := xs } := by simp [step, acceptNext, hr, hi]

/-- A step that takes in an admitted answer. -/
theorem step_answers {s : State} {a : Answer} {xs : List Input} {c : Call} (hr : s.refused = false)
    (hi : s.inputs = .answer a :: xs) (hw : State.waiting { s with inputs := xs } = .call c)
    (ha : c.admits s.lastNow a = true) :
    step s = afterAnswer a (State.exchange { s with inputs := xs } c a) := by
  rw [step_accepts hr hi]
  exact resume_admitted hw ha

theorem stepN_zero (s : State) : stepN 0 s = .next s := rfl

theorem stepN_succ {s t : State} (k : Nat) (h : step s = .next t) : stepN (k + 1) s = stepN k t := by
  simp [stepN, h]

/-- Steps in a row. -/
theorem stepN_add {s t : State} (j k : Nat) (h : stepN j s = .next t) : stepN (j + k) s = stepN k t := by
  induction j generalizing s with
  | zero =>
    cases h
    rw [Nat.zero_add]
  | succ j ih =>
    rw [Nat.succ_add]
    rcases hs : step s with s' | f | r
    · rw [stepN_succ _ hs] at h ⊢
      exact ih h
    · simp [stepN, hs] at h
    · simp [stepN, hs] at h

end Sys2Proof.Machine
end

