-- ==== Sys2Proof/Laws/Engines.lean ====
section
/-! SUPPORT. The two engines, piece by piece: the head of each retry loop, the acknowledgment, and the sequence numbers. -/

namespace Sys2Proof.Machine

/-! ### Sequence numbers -/

theorem nextTxSeq_eq (x : BitVec 4) : nextTxSeq x = x + 1 := by
  apply BitVec.eq_of_toNat_eq
  simp [nextTxSeq]

theorem expectedSeq_eq (b : Byte) : expectedSeq b = ((sint8 b + 1) % 16).toNat := rfl

theorem expectedSeq_lt (b : Byte) : expectedSeq b < 16 := by
  have h1 := Int.emod_lt_of_pos (sint8 b + 1) (show (0 : Int) < 16 by decide)
  have h2 := Int.emod_nonneg (sint8 b + 1) (show (16 : Int) ≠ 0 by decide)
  rw [expectedSeq_eq]
  omega

theorem u8_sint8 (b : Byte) : u8 (sint8 b) = b := by
  revert b
  decide

/-- A byte below 128 read as two's complement is itself. -/
theorem eq_of_toNat_eq_sint8 {b c : Byte} (h : (c.toNat : Int) = sint8 b) : b = c := by
  have h1 := c.isLt
  have h2 := b.isLt
  simp only [sint8] at h
  apply BitVec.eq_of_toNat_eq
  split at h <;> omega

theorem rxLegal_of_lt {b : Byte} (h : b.toNat < 16) : rxLegal b := by
  have : sint8 b = b.toNat := by simp only [sint8]; rw [if_pos (by omega)]
  exact .inr ⟨by omega, by simp only [Config.seqMod]; omega⟩

theorem classify_newBlock {f : Byte} {e : Nat} {r : Byte} (h : f.toNat = e) : classify f e r = .newBlock := by
  simp [classify, h]

theorem classify_duplicate {f : Byte} {e : Nat} {r : Byte} (h1 : f.toNat ≠ e) (h2 : (f.toNat : Int) = sint8 r) :
    classify f e r = .duplicate := by
  have h3 : sint8 r ≠ -1 := by omega
  simp only [classify]
  rw [if_neg h1, if_pos ⟨h3, h2⟩]

theorem classify_outOfSequence {f : Byte} {e : Nat} {r : Byte} (h1 : f.toNat ≠ e) (h2 : (f.toNat : Int) ≠ sint8 r) :
    classify f e r = .outOfSequence := by
  simp only [classify]
  rw [if_neg h1, if_neg fun h => h2 h.2]

/-- Everything `classify` says. -/
theorem classify_cases (f : Byte) (e : Nat) (r : Byte) :
    (classify f e r = .newBlock ∧ f.toNat = e) ∨
    (classify f e r = .duplicate ∧ f.toNat ≠ e ∧ (f.toNat : Int) = sint8 r) ∨
    (classify f e r = .outOfSequence ∧ f.toNat ≠ e ∧ (f.toNat : Int) ≠ sint8 r) := by
  by_cases h1 : f.toNat = e
  · exact .inl ⟨classify_newBlock h1, h1⟩
  · by_cases h2 : (f.toNat : Int) = sint8 r
    · exact .inr (.inl ⟨classify_duplicate h1 h2, h1, h2⟩)
    · exact .inr (.inr ⟨classify_outOfSequence h1 h2, h1, h2⟩)

/-! ### The retry loops -/

theorem ofNat_succ_attempt (a : BitVec 8) : BitVec.ofNat 8 (a.toNat + 1) = a + 1 := by
  apply BitVec.eq_of_toNat_eq
  simp

/-- The head of the sender's loop, with attempts left and the payload written. -/
theorem sendAttempt_builds {s : State} {len m n : Nat} {p : List Byte} (hn : n ≤ m) (hl : len ≤ 200)
    (hp : bufRead s.hostIn 0 len = some p) :
    sendAttempt len m n s = .next { s with
      txBuf := bufWrite s.txBuf 0 (frameOf p (seqByte s.txSeq)), txLen := len + 5, attempt := BitVec.ofNat 8 n,
      ctrl := .sWrite len m } := by
  have hpl := bufRead_length hp
  simp only [sendAttempt]
  rw [if_pos hn, withHostIn_written hp, withBuilt_ok (buildDataFrame_ok _ (by omega))]
  simp [State.putTx, length_frameOf, hpl]

theorem sendAttempt_givesUp {s : State} {len m n : Nat} (hn : m < n) :
    sendAttempt len m n s = .next (s.finish (Result.plain .giveUp)) := by
  simp only [sendAttempt]
  rw [if_neg (by omega), done_eq]

/-- Everything the head of the sender's loop can do with a payload of legal length. -/
theorem sendAttempt_cases (s : State) {len : Nat} (m n : Nat) (hl : len ≤ 200) :
    (m < n ∧ sendAttempt len m n s = .next (s.finish (Result.plain .giveUp))) ∨
    (n ≤ m ∧ bufRead s.hostIn 0 len = none ∧ sendAttempt len m n s = .refused .unwrittenHostInput) ∨
    (n ≤ m ∧ ∃ p, bufRead s.hostIn 0 len = some p ∧ sendAttempt len m n s = .next { s with
      txBuf := bufWrite s.txBuf 0 (frameOf p (seqByte s.txSeq)), txLen := len + 5, attempt := BitVec.ofNat 8 n,
      ctrl := .sWrite len m }) := by
  by_cases hn : n ≤ m
  · rcases hp : bufRead s.hostIn 0 len with _ | p
    · refine .inr (.inl ⟨hn, rfl, ?_⟩)
      simp only [sendAttempt]
      rw [if_pos hn, withHostIn_unwritten hp]
    · exact .inr (.inr ⟨hn, p, rfl, sendAttempt_builds hn hl hp⟩)
  · exact .inl ⟨by omega, sendAttempt_givesUp (by omega)⟩

theorem receiveAttempt_waits {s : State} {ms m e n : Nat} (hn : n ≤ m) :
    receiveAttempt ms m e n s = .next { s with attempt := BitVec.ofNat 8 n, ctrl := .rDl ms m e } := by
  simp only [receiveAttempt]
  rw [if_pos hn]

theorem receiveAttempt_givesUp {s : State} {ms m e n : Nat} (hn : m < n) :
    receiveAttempt ms m e n s = .next (s.finish (Result.plain .giveUp)) := by
  simp only [receiveAttempt]
  rw [if_neg (by omega), done_eq]

/-- Offering an acknowledgment. -/
theorem sendAck_eq (ms m e : Nat) (path : AckPath) (f : Byte) (d : List Byte) (s : State) :
    sendAck ms m e path f d s = .next { s with
      txBuf := bufWrite s.txBuf 0 (frameOf [] (echoOf path f s.rxLast)), txLen := 5,
      ctrl := .rAck ms m e path f d } := by
  simp only [sendAck]
  rw [withBuilt_ok (buildAckFrame_ok _)]
  simp [State.putTx, length_frameOf]

/-! ### The framer's outcome at its caller -/

theorem sendOutcome_bad {s : State} {len m n : Nat} {f : List Byte} (hf : bufRead s.rxBuf 0 n = some f)
    (hv : verifyFrame f = .bad) :
    sendOutcome len m (.got n) s = sendRetry len m { s with counters := s.counters.countBadRx } := by
  simp only [sendOutcome]
  rw [withRxFrame_written hf, hv]

theorem sendOutcome_good {s : State} {len m n : Nat} {f : List Byte} (hf : bufRead s.rxBuf 0 n = some f)
    (hv : verifyFrame f = .good) : sendOutcome len m (.got n) s = sendResponse len m (byteAt f 2) s := by
  simp only [sendOutcome]
  rw [withRxFrame_written hf, hv]

theorem receiveOutcome_bad {s : State} {ms m e n : Nat} {f : List Byte} (hf : bufRead s.rxBuf 0 n = some f)
    (hv : verifyFrame f = .bad) :
    receiveOutcome ms m e (.got n) s = receiveRetry ms m e { s with counters := s.counters.countBadRx } := by
  simp only [receiveOutcome]
  rw [withRxFrame_written hf, hv]

theorem receiveOutcome_good {s : State} {ms m e n : Nat} {f : List Byte} (hf : bufRead s.rxBuf 0 n = some f)
    (hv : verifyFrame f = .good) :
    receiveOutcome ms m e (.got n) s =
      receiveFrame ms m e (byteAt f 2) (slice f 3 (3 + min ((byteAt f 1).toNat - 5) ms))
        { s with counters := s.counters.countGoodRx } := by
  simp only [receiveOutcome]
  rw [withRxFrame_written hf, hv, withExtracted_ok (extractPayload_good ms hv)]

end Sys2Proof.Machine
end

