-- ==== Sys2Proof/Laws/Framer.lean ====
section
/-! SUPPORT. The framer, poll by poll: what one poll does in each of the three loops, and what a run of polls does. -/

namespace Sys2Proof.Machine

/-- A state of the framer after some polls: only `RX_BUF`, `RX_LEN`, `CTRL` and the model's own fields moved. -/
def State.polled (s : State) (rb : Memory) (rl : Nat) (ct : Ctrl) (ln : Nat) (rest : List Input)
    (tr : List Exchange) : State :=
  { s with rxBuf := rb, rxLen := rl, ctrl := ct, lastNow := ln, inputs := rest, trace := tr ++ s.trace }

theorem State.polled_polled (s : State) (rb rb' : Memory) (rl rl' : Nat) (ct ct' : Ctrl) (ln ln' : Nat)
    (rest rest' : List Input) (tr tr' : List Exchange) :
    (s.polled rb rl ct ln rest tr).polled rb' rl' ct' ln' rest' tr' = s.polled rb' rl' ct' ln' rest' (tr' ++ tr) := by
  simp [State.polled]

@[simp] theorem State.polled_rxBuf (s : State) (rb : Memory) (rl : Nat) (ct : Ctrl) (ln : Nat) (rest : List Input)
    (tr : List Exchange) : (s.polled rb rl ct ln rest tr).rxBuf = rb := rfl
@[simp] theorem State.polled_rxLen (s : State) (rb : Memory) (rl : Nat) (ct : Ctrl) (ln : Nat) (rest : List Input)
    (tr : List Exchange) : (s.polled rb rl ct ln rest tr).rxLen = rl := rfl

/-- The two exchanges of one poll, the later first. -/
def pollTrace (h : Handle) (m t : Nat) (ys : List Byte) : List Exchange :=
  [⟨.chanRead h m, .chanRead (.bytes ys)⟩, ⟨.now, .now t⟩]

theorem pollTrace_isPoll (h : Handle) (m t : Nat) (ys : List Byte) : ∀ e ∈ pollTrace h m t ys, e.isPoll h := by
  simp [pollTrace, Exchange.isPoll]

theorem bodyLoop_complete {s : State} {g : Nat} (h : s.rxLen = g) : bodyLoop g s = .returns (.got g) s := by
  simp [bodyLoop, h]

theorem bodyLoop_open {s : State} {g : Nat} (h : s.rxLen ≠ g) : bodyLoop g s = .waitNow (.body g) s := by
  simp [bodyLoop, h]

/-- Before the deadline, and with room in the buffer, the framer goes on to read. -/
theorem framerNow_waits {dl t : Nat} {ph : Phase} {s : State} (h : t < dl)
    (hf : ∀ g, ph = .body g → s.rxLen ≠ Config.frameBufCap) : framerNow dl ph t s = .waitRead ph s := by
  cases ph with
  | body g => simp only [framerNow, elapsed, decide_eq_true_eq, Nat.not_le.2 h, if_false, if_neg (hf g rfl)]
  | hunt => simp [framerNow, elapsed, Nat.not_le.2 h]
  | length => simp [framerNow, elapsed, Nat.not_le.2 h]

/-- One poll before the deadline: the clock's answer, then the channel's. -/
theorem poll_eq {s : State} {c : Caller} {dl t : Nat} {ph : Phase} {h : Handle} {ys : List Byte} {rest : List Input}
    (hr : s.refused = false) (hc : s.ctrl = .framerT c dl ph) (hh : s.chanHandle = some h)
    (hi : s.inputs = .answer (.now t) :: .answer (.chanRead (.bytes ys)) :: rest) (h1 : s.lastNow ≤ t) (h2 : t < dl)
    (hf : ∀ g, ph = .body g → s.rxLen ≠ Config.frameBufCap) (hy : ys.length ≤ readSize s.rxLen ph) (k : Nat) :
    stepN (2 + k) s =
      match framerGoesOn c dl (framerRead ph (.bytes ys)
        { s with ctrl := .framerR c dl ph, lastNow := t, inputs := rest,
                 trace := pollTrace h (readSize s.rxLen ph) t ys ++ s.trace }) with
      | .next s'   => stepN k s'
      | .fault f   => .fault f
      | .refused r => .refused r := by
  have e1 : step s = .next { s with
      ctrl := .framerR c dl ph, lastNow := t, inputs := .answer (.chanRead (.bytes ys)) :: rest,
      trace := ⟨.now, .now t⟩ :: s.trace } := by
    rw [step_answers (c := .now) hr hi (by simp [State.waiting, hc]) (admits_now.2 ⟨t, rfl, h1⟩),
      afterAnswer_framerT (by exact hc), framerNow_waits h2 (by exact hf)]
    rfl
  have e2 : step { s with
      ctrl := .framerR c dl ph, lastNow := t, inputs := .answer (.chanRead (.bytes ys)) :: rest,
      trace := ⟨.now, .now t⟩ :: s.trace } = _ :=
    step_answers (c := .chanRead h (readSize s.rxLen ph)) hr rfl (by simp [State.waiting, State.withHandle, hh])
      (admits_chanRead.2 (.inl ⟨ys, rfl, hy⟩))
  rw [show 2 + k = (k + 1) + 1 by omega, stepN_succ _ e1, stepN, e2]
  simp [afterAnswer, State.exchange, Answer.clock, pollTrace]
  rfl

/-- The poll that brings the start marker. -/
theorem poll_mark {s : State} {c : Caller} {dl t : Nat} {h : Handle} {rest : List Input} (hr : s.refused = false)
    (hc : s.ctrl = .framerT c dl .hunt) (hh : s.chanHandle = some h)
    (hi : s.inputs = .answer (.now t) :: .answer (.chanRead (.bytes [Config.startMarker])) :: rest)
    (h1 : s.lastNow ≤ t) (h2 : t < dl) (k : Nat) :
    stepN (2 + k) s = stepN k (s.polled (bufWrite s.rxBuf s.rxLen [Config.startMarker]) (s.rxLen + 1)
      (.framerT c dl .length) t rest (pollTrace h 1 t [Config.startMarker])) := by
  rw [poll_eq hr hc hh hi h1 h2 (by simp) (by simp [readSize])]
  simp [framerRead, huntRead, framerGoesOn, State.appendRx, State.polled, readSize]

/-- The poll that brings the length byte. -/
theorem poll_length {s : State} {c : Caller} {dl t : Nat} {h : Handle} {l : Byte} {rest : List Input}
    (hr : s.refused = false) (hc : s.ctrl = .framerT c dl .length) (hh : s.chanHandle = some h)
    (hi : s.inputs = .answer (.now t) :: .answer (.chanRead (.bytes [l])) :: rest)
    (h1 : s.lastNow ≤ t) (h2 : t < dl) (k : Nat) :
    stepN (2 + k) s =
      match framerGoesOn c dl (bodyLoop (targetOf l) (s.polled (bufWrite s.rxBuf s.rxLen [l]) (s.rxLen + 1)
        (.framerR c dl .length) t rest (pollTrace h 1 t [l]))) with
      | .next s'   => stepN k s'
      | .fault f   => .fault f
      | .refused r => .refused r := by
  rw [poll_eq hr hc hh hi h1 h2 (by simp) (by simp [readSize])]
  simp [framerRead, lengthRead, State.appendRx, State.polled, readSize]

/-- A run of polls that each leave the framer waiting where it was: nothing is placed in `RX_BUF`. -/
theorem idle_polls {c : Caller} {dl : Nat} {h : Handle} {ph : Phase} (ps : List Poll) (rest : List Input) (k : Nat)
    (s : State) (hr : s.refused = false) (hc : s.ctrl = .framerT c dl ph) (hh : s.chanHandle = some h)
    (hf : ∀ g, ph = .body g → s.rxLen ≠ Config.frameBufCap)
    (hn : ∀ p ∈ ps, p.bytes.length ≤ readSize s.rxLen ph ∧ ∀ s', framerRead ph (.bytes p.bytes) s' = .waitNow ph s')
    (hm : (s.lastNow :: ps.map Poll.time).Pairwise (· ≤ ·)) (hd : ∀ p ∈ ps, p.time < dl)
    (hi : s.inputs = pollInputs ps ++ rest) :
    ∃ ln tr, stepN (2 * ps.length + k) s = stepN k (s.polled s.rxBuf s.rxLen (.framerT c dl ph) ln rest tr) ∧
      ln = (ps.map Poll.time).getLastD s.lastNow ∧ ∀ e ∈ tr, e.isPoll h := by
  induction ps generalizing s with
  | nil =>
    refine ⟨s.lastNow, [], ?_, rfl, by simp⟩
    simp only [List.length_nil, Nat.mul_zero, Nat.zero_add, State.polled]
    congr 1
    cases s
    simp_all [pollInputs]
  | cons p ps ih =>
    obtain ⟨hp1, hp2⟩ := hn p (by simp)
    simp only [List.map_cons, List.pairwise_cons] at hm
    obtain ⟨ht, htt⟩ := hm
    have hi' : s.inputs = .answer (.now p.time) :: .answer (.chanRead (.bytes p.bytes)) :: (pollInputs ps ++ rest) := by
      simpa [pollInputs, Poll.inputs] using hi
    rw [show 2 * (p :: ps).length + k = 2 + (2 * ps.length + k) by simp only [List.length_cons]; omega,
      poll_eq hr hc hh hi' (ht _ (by simp)) (hd p (by simp)) hf hp1, hp2]
    obtain ⟨ln, tr, h1, h2, h3⟩ := ih { s with
        ctrl := .framerT c dl ph, lastNow := p.time, inputs := pollInputs ps ++ rest,
        trace := pollTrace h (readSize s.rxLen ph) p.time p.bytes ++ s.trace }
      hr rfl hh hf (fun x hx => hn x (by simp [hx])) (List.pairwise_cons.2 htt) (fun x hx => hd x (by simp [hx])) rfl
    refine ⟨ln, tr ++ pollTrace h (readSize s.rxLen ph) p.time p.bytes, ?_, ?_, ?_⟩
    · simp only [framerGoesOn]
      rw [h1]
      simp [State.polled]
    · rw [h2]
      cases ps <;> simp [List.getLastD]
    · intro x hx
      rcases List.mem_append.1 hx with hx | hx
      · exact h3 x hx
      · exact pollTrace_isPoll _ _ _ _ x hx

/-- In the hunt, an answer of at most one byte that is no start marker is discarded (R100). -/
theorem framerRead_noise {ys : List Byte} (h1 : ys.length ≤ 1) (h2 : ys ≠ [Config.startMarker]) (s : State) :
    framerRead .hunt (.bytes ys) s = .waitNow .hunt s := by
  rcases ys with _ | ⟨b, _ | ⟨b', bs⟩⟩
  · rfl
  · have : b ≠ Config.startMarker := fun e => h2 (by rw [e])
    simpa [framerRead, huntRead] using this
  · simp at h1

/-- A run of noise polls in the hunt. -/
theorem hunt_noise {c : Caller} {dl : Nat} {h : Handle} (ps : List Poll) (rest : List Input) (k : Nat) (s : State)
    (hr : s.refused = false) (hc : s.ctrl = .framerT c dl .hunt) (hh : s.chanHandle = some h)
    (hn : ∀ p ∈ ps, p.bytes.length ≤ 1 ∧ p.bytes ≠ [Config.startMarker])
    (hm : (s.lastNow :: ps.map Poll.time).Pairwise (· ≤ ·)) (hd : ∀ p ∈ ps, p.time < dl)
    (hi : s.inputs = pollInputs ps ++ rest) :
    ∃ ln tr, stepN (2 * ps.length + k) s = stepN k (s.polled s.rxBuf s.rxLen (.framerT c dl .hunt) ln rest tr) ∧
      ln = (ps.map Poll.time).getLastD s.lastNow ∧ ∀ e ∈ tr, e.isPoll h :=
  idle_polls ps rest k s hr hc hh (by simp) (fun p hp => ⟨(hn p hp).1, framerRead_noise (hn p hp).1 (hn p hp).2⟩) hm hd hi

/-- A run of empty answers where the length byte is due (R101). -/
theorem length_waits {c : Caller} {dl : Nat} {h : Handle} (ts : List Nat) (rest : List Input) (k : Nat) (s : State)
    (hr : s.refused = false) (hc : s.ctrl = .framerT c dl .length) (hh : s.chanHandle = some h)
    (hm : (s.lastNow :: ts).Pairwise (· ≤ ·)) (hd : ∀ t ∈ ts, t < dl)
    (hi : s.inputs = pollInputs (ts.map (⟨·, []⟩)) ++ rest) :
    ∃ ln tr, stepN (2 * ts.length + k) s = stepN k (s.polled s.rxBuf s.rxLen (.framerT c dl .length) ln rest tr) ∧
      ln = ts.getLastD s.lastNow ∧ ∀ e ∈ tr, e.isPoll h := by
  have e : (ts.map (⟨·, []⟩)).map Poll.time = ts := by
    rw [List.map_map]
    exact List.map_id ts
  have := idle_polls (c := c) (dl := dl) (h := h) (ph := .length) (ts.map (⟨·, []⟩)) rest k s hr hc hh (by simp)
    (by simp [readSize, framerRead, lengthRead]) (by rw [e]; exact hm) (by simpa using hd) hi
  rwa [e, List.length_map] at this

/-- A run of body polls that brings exactly the rest of the frame, the last one at least one byte. -/
theorem body_pieces {c : Caller} {dl g : Nat} {h : Handle} (ps : List Poll) (rest : List Input) (s : State)
    (hr : s.refused = false) (hc : s.ctrl = .framerT c dl (.body g)) (hh : s.chanHandle = some h)
    (hne : ps ≠ []) (hl : ∀ p ∈ ps.getLast?, p.bytes ≠ []) (hg : g ≤ 205)
    (hb : s.rxLen + (ps.flatMap Poll.bytes).length = g)
    (hm : (s.lastNow :: ps.map Poll.time).Pairwise (· ≤ ·)) (hd : ∀ p ∈ ps, p.time < dl)
    (hi : s.inputs = pollInputs ps ++ rest) :
    ∃ ct ln tr, stepN (2 * ps.length) s =
        framerReturn c (.got g) (s.polled (bufWrite s.rxBuf s.rxLen (ps.flatMap Poll.bytes)) g ct ln rest tr) ∧
      ∀ e ∈ tr, e.isPoll h := by
  induction ps generalizing s with
  | nil => exact absurd rfl hne
  | cons p ps ih =>
    simp only [List.map_cons, List.pairwise_cons] at hm
    obtain ⟨ht, htt⟩ := hm
    have hi' : s.inputs = .answer (.now p.time) :: .answer (.chanRead (.bytes p.bytes)) :: (pollInputs ps ++ rest) := by
      simpa [pollInputs, Poll.inputs] using hi
    simp only [List.flatMap_cons, List.length_append] at hb
    have hpos : 0 < p.bytes.length + (ps.flatMap Poll.bytes).length := by
      rcases hps : ps with _ | ⟨p', ps'⟩
      · have := hl p (by simp [hps])
        have := List.length_pos_iff.2 this
        omega
      · obtain ⟨x, hx⟩ : ∃ x, ps.getLast? = some x := by rw [hps]; exact ⟨_, List.getLast?_eq_some_getLast (by simp)⟩
        have h1 := hl x (by rw [hps] at hx ⊢; simpa using hx)
        have h2 : x ∈ ps := List.mem_of_getLast? hx
        have h3 : x.bytes.length ≤ (ps.flatMap Poll.bytes).length :=
          (List.sublist_flatten_of_mem (List.mem_map_of_mem h2)).length_le
        have := List.length_pos_iff.2 h1
        rw [← hps]
        omega
    rw [show 2 * (p :: ps).length = 2 + 2 * ps.length by simp only [List.length_cons]; omega,
      poll_eq hr hc hh hi' (ht _ (by simp)) (hd p (by simp)) (by intro g' hg'; simp; omega)
        (by have : Config.frameBufCap = 205 := rfl
            simp only [readSize]; omega)]
    simp only [framerRead]
    rcases hps : ps with _ | ⟨p', ps'⟩
    · subst hps
      simp only [List.flatMap_nil, List.length_nil, Nat.add_zero] at hb
      rw [bodyLoop_complete (by exact hb)]
      refine ⟨.framerR c dl (.body g), p.time, pollTrace h (readSize s.rxLen (.body g)) p.time p.bytes, ?_,
        pollTrace_isPoll _ _ _ _⟩
      simp only [framerGoesOn, List.length_nil, Nat.mul_zero, List.flatMap_cons, List.flatMap_nil, List.append_nil,
        State.polled, State.appendRx, hb, pollInputs, List.nil_append]
      rcases framerReturn _ _ _ <;> rfl
    · have hlt : s.rxLen + p.bytes.length ≠ g := by
        obtain ⟨x, hx⟩ : ∃ x, ps.getLast? = some x := by rw [hps]; exact ⟨_, List.getLast?_eq_some_getLast (by simp)⟩
        have h1 := hl x (by rw [hps] at hx ⊢; simpa using hx)
        have h2 : x ∈ ps := List.mem_of_getLast? hx
        have h3 : x.bytes.length ≤ (ps.flatMap Poll.bytes).length :=
          (List.sublist_flatten_of_mem (List.mem_map_of_mem h2)).length_le
        have := List.length_pos_iff.2 h1
        omega
      rw [bodyLoop_open (by exact hlt)]
      rw [← hps]
      obtain ⟨ct, ln, tr, h1, h2⟩ := ih { s with
          rxBuf := bufWrite s.rxBuf s.rxLen p.bytes, rxLen := s.rxLen + p.bytes.length,
          ctrl := .framerT c dl (.body g), lastNow := p.time, inputs := pollInputs ps ++ rest,
          trace := pollTrace h (readSize s.rxLen (.body g)) p.time p.bytes ++ s.trace }
        hr rfl hh (by simp [hps]) (by intro x hx; exact hl x (by rw [hps] at hx ⊢; simpa using hx))
        (by simp only; omega) (List.pairwise_cons.2 htt) (fun x hx => hd x (by simp [hx])) rfl
      refine ⟨ct, ln, tr ++ pollTrace h (readSize s.rxLen (.body g)) p.time p.bytes, ?_, ?_⟩
      · simp only [framerGoesOn, State.appendRx]
        rw [h1, List.flatMap_cons, bufWrite_append]
        simp [State.polled]
      · intro x hx
        rcases List.mem_append.1 hx with hx | hx
        · exact h2 x hx
        · exact pollTrace_isPoll _ _ _ _ x hx

end Sys2Proof.Machine
end

