-- ==== Sys2Proof/Laws/PerInstr.lean ====
section
/-! SUPPORT. Statements for all commands, with one lemma per command: the fields of a command's word are its opcode and
its operands. -/

namespace Sys2Proof.Laws

/-- R73: the fields of a word put together from fields. -/
theorem fields_of_word (b a op : Nat) :
    opField (wordOfFields b a op) = op % 256 ∧ aField (wordOfFields b a op) = a % 256 ∧
    bField (wordOfFields b a op) = b % 256 ∧ zField (wordOfFields b a op) = 0 := by
  have e : (wordOfFields b a op).toNat = (b % 256) * 65536 + (a % 256) * 256 + op % 256 := by
    simp only [wordOfFields]
    rw [BitVec.toNat_append, BitVec.toNat_append, BitVec.toNat_append]
    simp only [BitVec.toNat_ofNat, Nat.shiftLeft_eq]
    rw [← Nat.shiftLeft_eq, ← Nat.shiftLeft_eq, ← Nat.shiftLeft_eq]
    rw [← Nat.shiftLeft_add_eq_or_of_lt (by omega), ← Nat.shiftLeft_add_eq_or_of_lt (by omega),
      ← Nat.shiftLeft_add_eq_or_of_lt (by omega)]
    simp [Nat.shiftLeft_eq]; ring_nf
  refine ⟨?_, ?_, ?_, ?_⟩ <;>
    simp only [opField, aField, bField, zField, BitVec.extractLsb'_toNat, e, Nat.shiftRight_eq_div_pow] <;> omega

end Sys2Proof.Laws

namespace Sys2Proof.Laws.EncodeFields

/-- R73, R76: the fields of the word of a well-formed command. -/
def Statement (i : Instr) : Prop :=
  i.wellFormed = true →
    opField (encode i) = i.opcode ∧ aField (encode i) = i.operandA ∧ bField (encode i) = i.operandB ∧
    zField (encode i) = 0

/-- The fields, from the bounds on them. -/
theorem of_bounds {i : Instr} (h : i.wellFormed = true → i.opcode < 256 ∧ i.operandA < 256 ∧ i.operandB < 256) :
    Statement i := by
  intro hw
  obtain ⟨h1, h2, h3⟩ := h hw
  obtain ⟨e1, e2, e3, e4⟩ := fields_of_word i.operandB i.operandA i.opcode
  exact ⟨e1.trans (Nat.mod_eq_of_lt h1), e2.trans (Nat.mod_eq_of_lt h2), e3.trans (Nat.mod_eq_of_lt h3), e4⟩

theorem connect : Statement .connect := of_bounds fun _ => ⟨by decide, by decide, by decide⟩

theorem disconnect : Statement .disconnect := of_bounds fun _ => ⟨by decide, by decide, by decide⟩

theorem send (x y : Nat) : Statement (.send x y) := of_bounds fun h => by
  simp only [Instr.wellFormed, operandFits, Bool.and_eq_true, decide_eq_true_eq] at h
  simp only [Instr.opcode, Instr.operandA, Instr.operandB]
  omega

theorem receive (x y : Nat) : Statement (.receive x y) := of_bounds fun h => by
  simp only [Instr.wellFormed, operandFits, Bool.and_eq_true, decide_eq_true_eq] at h
  simp only [Instr.opcode, Instr.operandA, Instr.operandB]
  omega

theorem optimalBlockSize : Statement .optimalBlockSize := of_bounds fun _ => ⟨by decide, by decide, by decide⟩

theorem checksum (x y : Nat) : Statement (.checksum x y) := of_bounds fun h => by
  simp only [Instr.wellFormed, operandFits, Bool.and_eq_true, decide_eq_true_eq] at h
  simp only [Instr.opcode, Instr.operandA, Instr.operandB]
  omega

theorem buildData (x y : Nat) : Statement (.buildData x y) := of_bounds fun h => by
  simp only [Instr.wellFormed, operandFits, Bool.and_eq_true, decide_eq_true_eq] at h
  simp only [Instr.opcode, Instr.operandA, Instr.operandB]
  omega

theorem buildAck (x : Nat) : Statement (.buildAck x) := of_bounds fun h => by
  simp only [Instr.wellFormed, operandFits, decide_eq_true_eq] at h
  simp only [Instr.opcode, Instr.operandA, Instr.operandB]
  omega

theorem verify (x : Nat) : Statement (.verify x) := of_bounds fun h => by
  simp only [Instr.wellFormed, operandFits, decide_eq_true_eq] at h
  simp only [Instr.opcode, Instr.operandA, Instr.operandB]
  omega

theorem extract (x y : Nat) : Statement (.extract x y) := of_bounds fun h => by
  simp only [Instr.wellFormed, operandFits, Bool.and_eq_true, decide_eq_true_eq] at h
  simp only [Instr.opcode, Instr.operandA, Instr.operandB]
  omega

theorem readFrame (x : Nat) : Statement (.readFrame x) := of_bounds fun h => by
  simp only [Instr.wellFormed, operandFits, decide_eq_true_eq] at h
  simp only [Instr.opcode, Instr.operandA, Instr.operandB]
  omega

theorem setDeadline (x : Nat) : Statement (.setDeadline x) := of_bounds fun h => by
  simp only [Instr.wellFormed, operandFits, decide_eq_true_eq] at h
  simp only [Instr.opcode, Instr.operandA, Instr.operandB]
  omega

theorem elapsed : Statement .elapsed := of_bounds fun _ => ⟨by decide, by decide, by decide⟩

end Sys2Proof.Laws.EncodeFields
end

