-- ==== Sys2Proof/Laws/Sound.lean ====
section
/-! SUPPORT. What the shared operations keep of a sound state, and that each buffer operation keeps the canonical form. -/

namespace Sys2Proof.Machine

namespace State.Sound

variable {s : State}

theorem finish (h : s.Sound) (r : Result) : (s.finish r).Sound := { h with }

theorem exchange (h : s.Sound) (c : Call) (a : Answer) : (s.exchange c a).Sound := { h with }

theorem takeInput (h : s.Sound) (xs : List Input) : State.Sound { s with inputs := xs } := { h with }

theorem closeSession (h : s.Sound) : s.closeSession.Sound := { h with session := rfl }

theorem openSession (h : s.Sound) (d : Handle) : (s.openSession d).Sound :=
  { h with session := rfl, rxLast := .inl (show sint8 (u8 (-1)) = -1 by decide) }

theorem hostWrite (h : s.Sound) (i : Fin Config.hostBufCap) (b : Byte) :
    State.Sound { s with hostIn := s.hostIn.write i.val b } :=
  { h with inWf := Memory.wf_write h.inWf _ _, inWithin := Memory.within_write h.inWithin i.isLt _ }

theorem putTx (h : s.Sound) {f : List Byte} (hf : f.length ≤ 205) : (s.putTx f).Sound :=
  { h with
    txWf := wf_bufWrite h.txWf _ _
    txWithin := within_bufWrite h.txWithin (by simpa using hf)
    txHolds := ⟨hf, by
      have e : bufRead (s.putTx f).txBuf 0 (s.putTx f).txLen = some f := bufRead_bufWrite _ _ _
      rw [Memory.holds, e]
      rfl⟩ }

theorem putOut (h : s.Sound) {d : List Byte} (hd : d.length ≤ 200) : (s.putOut d).Sound :=
  { h with
    outWf := wf_bufWrite h.outWf _ _
    outWithin := within_bufWrite h.outWithin (by simpa using hd)
    outHolds := ⟨hd, by
      have e : bufRead (s.putOut d).hostOut 0 (s.putOut d).outLen = some d := bufRead_bufWrite _ _ _
      rw [Memory.holds, e]
      rfl⟩ }

theorem appendRx (h : s.Sound) {ys : List Byte} (hy : s.rxLen + ys.length ≤ 205) : (s.appendRx ys).Sound :=
  { h with
    rxWf := wf_bufWrite h.rxWf _ _
    rxWithin := within_bufWrite h.rxWithin (by simpa using hy)
    rxHolds := ⟨hy, by
      obtain ⟨xs, hx⟩ := Option.isSome_iff_exists.1 h.rxHolds.2
      have e : bufRead (bufWrite s.rxBuf s.rxLen ys) 0 (s.rxLen + ys.length) = some (xs ++ ys) := by
        rw [bufRead_add, bufRead_congr (m := s.rxBuf)
          fun j _ hj => read_bufWrite_outside _ _ _ (.inl (by omega)), hx]
        simp [bufRead_bufWrite]
      simp only [Memory.holds, State.appendRx, e]
      rfl⟩ }

/-- The received bytes that a rule reads are written. -/
theorem rxFrame (h : s.Sound) {n : Nat} (hn : n ≤ s.rxLen) : ∃ f, bufRead s.rxBuf 0 n = some f := by
  obtain ⟨xs, hx⟩ := Option.isSome_iff_exists.1 h.rxHolds.2
  exact ⟨_, bufRead_prefix hx hn⟩

/-- The frame to be written to the channel is written in `TX_BUF`. -/
theorem txFrame (h : s.Sound) : ∃ f, bufRead s.txBuf 0 s.txLen = some f :=
  Option.isSome_iff_exists.1 h.txHolds.2

/-- While connected there is a handle. -/
theorem handle (h : s.Sound) (hc : s.connected = true) : ∃ d, s.chanHandle = some d := by
  have e := h.session
  rw [hc] at e
  exact Option.isSome_iff_exists.1 e.symm

end State.Sound

/-- The buffers after power-on are in canonical form. -/
theorem reset_buffers_wf : State.reset.txBuf.wf ∧ State.reset.rxBuf.wf ∧ State.reset.hostIn.wf ∧ State.reset.hostOut.wf :=
  ⟨List.Pairwise.nil, List.Pairwise.nil, List.Pairwise.nil, List.Pairwise.nil⟩

/-- What holds at a control point does not depend on the items still to come. -/
theorem State.ctrlOk_takeInput {s : State} (h : s.ctrlOk) (xs : List Input) : State.ctrlOk { s with inputs := xs } := by
  obtain ⟨c, hc⟩ : ∃ c, s.ctrl = c := ⟨_, rfl⟩
  simp only [State.ctrlOk] at h ⊢
  rw [hc] at h ⊢
  cases c with
  | framerT cl dl ph => exact ⟨h.1, h.2.1, by cases cl <;> exact h.2.2.1, by cases ph <;> exact h.2.2.2⟩
  | framerR cl dl ph =>
    exact ⟨h.1, h.2.1, by cases cl <;> exact h.2.2.1, by cases ph <;> exact h.2.2.2.1, h.2.2.2.2⟩
  | _ => exact h

end Sys2Proof.Machine
end

