-- ==== Sys2Proof/Tests/Slice0.lean ====
section
/-! SUPPORT. Tests. The expected values come from spec/30_encoding.md rule R81 and spec/95_test_vectors.md (the vector is
named at each test). Then, for each statement with hypotheses, a concrete state and operands that meet them. -/

namespace Sys2Proof.Tests

open Sys2Proof.Machine

/-! ### Small states -/

/-- 95_test_vectors.md, environment E0: 10 ticks per second. -/
def params10 : Config.Params :=
  { ticksPerSecond := 10, channel := ⟨0, 0, 0, 0, 0, 0, 0⟩ }

/-- Power-on, with the parameters of E0. -/
def off : State := { State.reset with params := params10 }

/-- Connected, with the given sequence registers. -/
def on (tx : BitVec 4) (rx : Byte) : State :=
  { off with connected := true, chanHandle := some ⟨1⟩, txSeq := tx, rxLast := rx }

/-- A buffer that holds the given bytes from index 0. -/
def buf (xs : List Byte) : Memory := bufWrite [] 0 xs

/-- `s` after the host wrote the given bytes. -/
def host (xs : List Byte) (s : State) : State := { s with hostIn := buf xs }

/-- `s` at a control point, with the items to come. -/
def feed (c : Ctrl) (xs : List Input) (s : State) : State := { s with ctrl := c, inputs := xs }

/-- `s` with a partial frame in `RX_BUF`. -/
def partly (xs : List Byte) (s : State) : State := { s with rxBuf := buf xs, rxLen := xs.length }

/-- `s` with the given frame in `TX_BUF`. -/
def built (xs : List Byte) (s : State) : State := { s with txBuf := buf xs, txLen := xs.length }

/-- `s` in the given attempt. -/
def attempt (n : BitVec 8) (s : State) : State := { s with attempt := n }

/-- The outcome is a next state of which `p` holds. -/
def nextIs (p : State → Bool) : Out → Bool
  | .next s    => p s
  | .fault _   => false
  | .refused _ => false

/-- The command has ended, with the given status and value. -/
def ended (st : Status) (v : BitVec 16) (s : State) : Bool :=
  decide (s.ctrl = .idle) && decide (s.result.status = st) && decide (s.result.value = v)

/-- The answer of the clock. -/
def clock (t : Nat) : Input := .answer (.now t)

/-- The bytes of a read. -/
def bytes (ys : List Byte) : Input := .answer (.chanRead (.bytes ys))

/-! ### Decoding: R81, 95_test_vectors.md 2.7 -/

theorem test_decode_connect : decode 0x00000001 = .ok .connect := rfl
theorem test_decode_disconnect : decode 0x00000002 = .ok .disconnect := rfl
theorem test_decode_send : decode 0x00FFC803 = .ok (.send 200 255) := rfl
theorem test_decode_receive : decode 0x00010004 = .ok (.receive 0 1) := rfl
theorem test_decode_optimal_block_size : decode 0x00000005 = .ok .optimalBlockSize := rfl
theorem test_decode_checksum : decode 0x00080010 = .ok (.checksum 0 8) := rfl
theorem test_decode_build_data : decode 0x00000311 = .ok (.buildData 3 0) := rfl
theorem test_decode_build_ack : decode 0x00FF0012 = .ok (.buildAck 255) := rfl
theorem test_decode_verify : decode 0x00000813 = .ok (.verify 8) := rfl
theorem test_decode_extract : decode 0x00020814 = .ok (.extract 8 2) := rfl
theorem test_decode_read_frame : decode 0x00000415 = .ok (.readFrame 4) := rfl
theorem test_decode_set_deadline : decode 0x00000416 = .ok (.setDeadline 4) := rfl
theorem test_decode_elapsed : decode 0x00000017 = .ok .elapsed := rfl

/-- The words of 2.7's list of illegal words that have an unassigned `OP`, and its neighbours of the map. -/
theorem test_decode_unassigned :
    decode 0x00000000 = .error (.unassignedOpcode 0x00) ∧ decode 0x00000006 = .error (.unassignedOpcode 0x06) ∧
    decode 0x0000000F = .error (.unassignedOpcode 0x0F) ∧ decode 0x00000018 = .error (.unassignedOpcode 0x18) ∧
    decode 0x000000FF = .error (.unassignedOpcode 0xFF) := ⟨rfl, rfl, rfl, rfl, rfl⟩

/-- The words of 2.7's list that have a nonzero must-be-zero field. -/
theorem test_decode_nonzero_field :
    decode 0x01000001 = .error .nonzeroZ ∧ decode 0x80050303 = .error .nonzeroZ ∧
    decode 0x00000101 = .error .nonzeroA ∧ decode 0x00010002 = .error .nonzeroB ∧
    decode 0x00000105 = .error .nonzeroA ∧ decode 0x00000112 = .error .nonzeroA ∧
    decode 0x00010813 = .error .nonzeroB ∧ decode 0x00010415 = .error .nonzeroB ∧
    decode 0x00010416 = .error .nonzeroB ∧ decode 0x00000117 = .error .nonzeroA :=
  ⟨rfl, rfl, rfl, rfl, rfl, rfl, rfl, rfl, rfl, rfl⟩

/-- R80, R81: the two pseudo-instructions. -/
theorem test_pseudo_instructions :
    lineInputs (.sendDefault 3) = [.command 0x00050303] ∧
    lineInputs (.receiveDefault 200) = [.command 0x0005C804] := by decide

/-- R79: `.in 1, 2` writes `HOST_IN[0..2)`. -/
theorem test_host_directive :
    lineInputs (.hostInput [1, 2]) = [.hostWrite ⟨0, by decide⟩ 1, .hostWrite ⟨1, by decide⟩ 2] := by decide

/-- R79, R80: lines of programs P2 and P5, and what is no line: operands in another order, a value that is no byte. -/
theorem test_parse_line :
    parseLine "        SEND len=2              ; 0x00050203".toList = some (some (.sendDefault 2)) ∧
    parseLine ".in 0x41, 0x42".toList = some (some (.hostInput [0x41, 0x42])) ∧
    parseLine "EXTRACT n=8, max=200".toList = some (some (.command (.extract 8 200))) ∧
    parseLine "  ; a comment".toList = some none ∧
    parseLine "SEND attempts=1, len=2".toList = none ∧ parseLine "VERIFY n=256".toList = none := by decide

/-! ### Well-formedness: one ill-formed term for each check -/

theorem test_illformed_send : (Instr.send 256 5).wellFormed = false ∧ (Instr.send 3 256).wellFormed = false := by decide
theorem test_illformed_receive :
    (Instr.receive 256 5).wellFormed = false ∧ (Instr.receive 200 256).wellFormed = false := by decide
theorem test_illformed_checksum :
    (Instr.checksum 256 8).wellFormed = false ∧ (Instr.checksum 0 256).wellFormed = false := by decide
theorem test_illformed_build_data :
    (Instr.buildData 256 0).wellFormed = false ∧ (Instr.buildData 3 256).wellFormed = false := by decide
theorem test_illformed_build_ack : (Instr.buildAck 256).wellFormed = false := by decide
theorem test_illformed_verify : (Instr.verify 256).wellFormed = false := by decide
theorem test_illformed_extract :
    (Instr.extract 256 2).wellFormed = false ∧ (Instr.extract 8 256).wellFormed = false := by decide
theorem test_illformed_read_frame : (Instr.readFrame 256).wellFormed = false := by decide
theorem test_illformed_set_deadline : (Instr.setDeadline 256).wellFormed = false := by decide
theorem test_wellformed_bounds : (Instr.send 255 255).wellFormed = true ∧ (Instr.receive 0 0).wellFormed = true := by decide

/-! ### Codec: 95_test_vectors.md 2.1 -/

theorem test_checksum_above_256 :
    nextIs (ended .ok 5) (exec (.checksum 0 6) (host [250] off)) = true := by decide
theorem test_checksum_reads_no_byte : nextIs (ended .ok 12) (exec (.checksum 7 5) off) = true := by decide
theorem test_build_data_frame :
    nextIs (fun s => ended .ok 7 s && decide (s.txLen = 7) &&
      decide (bufRead s.txBuf 0 7 = some [212, 7, 3, 212, 204, 175, 204]))
      (exec (.buildData 2 3) (host [0xD4, 0xCC] off)) = true := by decide
theorem test_build_data_unwritten :
    exec (.buildData 4 0) (host [1, 2, 3] off) = .refused .unwrittenHostInput := rfl
/-- Program P5: bytes beyond the acknowledgment keep what they held. -/
theorem test_build_ack_frame :
    nextIs (fun s => ended .ok 5 s && decide (bufRead s.txBuf 0 8 = some [212, 5, 255, 9, 204, 3, 14, 204]))
      (exec (.buildAck 255) (built [212, 8, 0, 1, 2, 3, 14, 204] off)) = true := by decide
theorem test_verify_good :
    nextIs (ended .good 0) (exec (.verify 8) (host [212, 8, 0, 1, 2, 3, 14, 204] off)) = true := by decide
/-- The source's own frame (1.6): its declared length is 6 and its size 8. -/
theorem test_verify_bad :
    nextIs (ended .bad 0) (exec (.verify 8) (host [212, 6, 0, 1, 2, 3, 12, 204] off)) = true := by decide
theorem test_extract_truncates :
    nextIs (fun s => ended .ok 2 s && decide (s.outLen = 2) && decide (bufRead s.hostOut 0 2 = some [1, 2]))
      (exec (.extract 8 2) (host [212, 8, 0, 1, 2, 3, 14, 204] off)) = true := by decide
theorem test_extract_bad :
    nextIs (fun s => ended .bad 0 s && decide (s.hostOut = []))
      (exec (.extract 8 200) (host [212, 8, 0, 1, 2, 3, 12, 204] off)) = true := by decide

/-! ### Framer: 95_test_vectors.md 2.2 -/

/-- FR1: the last read. -/
theorem test_read_frame_got :
    nextIs (fun s => ended .frGot 5 s && decide (bufRead s.rxBuf 0 5 = some [212, 5, 3, 8, 204]))
      (step (feed (.framerR .readFrame 40 (.body 5)) [bytes [3, 8, 204]] (partly [212, 5] (on 0 0xFF)))) = true := by
  decide
/-- FR13: an empty answer where the length byte is due; the framer polls again, with nothing placed. -/
theorem test_read_frame_length_wait :
    nextIs (fun s => decide (s.ctrl = .framerT .readFrame 40 .length) && decide (s.rxLen = 1) &&
      decide (s.rxBuf = buf [212]))
      (step (feed (.framerR .readFrame 40 .length) [bytes []] (partly [212] (on 0 0xFF)))) = true := by decide
/-- FR14: an error answer where the length byte is due. -/
theorem test_read_frame_error :
    nextIs (fun s => ended .frChannelError 0 s && decide (s.result.code = -7))
      (step (feed (.framerR .readFrame 40 .length) [.answer (.chanRead (.error (-7)))] (partly [212] (on 0 0xFF))))
      = true := by decide

/-! ### Timeout controller: 95_test_vectors.md 2.3 -/

/-- TM7. -/
theorem test_set_deadline :
    nextIs (fun s => ended .ok 0 s && decide (s.deadline = 2553)) (step (feed (.tSet 255) [clock 3] off)) = true := by
  decide
/-- TM2, TM3: the comparison is inclusive. -/
theorem test_elapsed_inclusive :
    nextIs (ended .ok 0) (step (feed .tElapsed [clock 4499] { off with deadline := 4500 })) = true ∧
    nextIs (ended .ok 1) (step (feed .tElapsed [clock 4500] { off with deadline := 4500 })) = true := by decide

/-! ### Sender: 95_test_vectors.md 2.4 -/

/-- SN2: `TX_SEQ` wraps from 15 to 0 at the last read. -/
theorem test_send_wraps_sequence :
    nextIs (fun s => ended .ok 0 s && decide (s.txSeq = 0) && decide (s.counters.acksRx = 1))
      (step (feed (.framerR (.send 1 5) 40 (.body 5)) [bytes [15, 20, 204]]
        (attempt 1 (partly [212, 5] (on 15 0xFF))))) = true := by decide
/-- SN12: the echo 255 is a negative acknowledgment, and the frame is offered again. -/
theorem test_send_negative_acknowledgment :
    nextIs (fun s => decide (s.ctrl = .sWrite 1 5) && decide (s.attempt = 3) && decide (s.counters.acksRx = 1) &&
        decide (bufRead s.txBuf 0 6 = some [212, 6, 0, 9, 15, 204]))
      (step (feed (.framerR (.send 1 5) 40 (.body 5)) [bytes [255, 9, 204]]
        (attempt 2 (partly [212, 5] (host [9] (on 0 0xFF)))))) = true := by decide

/-! ### Receiver: 95_test_vectors.md 2.5 -/

/-- RX8: sequence 16 is not sequence 0; the acknowledgment echoes −1 as 255. -/
theorem test_receive_out_of_sequence :
    nextIs (fun s => decide (s.ctrl = .rAck 200 5 0 .outOfSequence 16 [1]) && decide (s.rxLast = 0xFF) &&
        decide (bufRead s.txBuf 0 5 = some [212, 5, 255, 9, 204]))
      (step (feed (.framerR (.receive 200 5 0) 60 (.body 6)) [bytes [16, 1, 23, 204]]
        (attempt 1 (partly [212, 6] (on 0 0xFF))))) = true := by decide
/-- RX9: `RX_LAST` was updated before the failed acknowledgment, and stays. -/
theorem test_receive_failed_acknowledgment :
    nextIs (fun s => ended .transportFailure 0 s && decide (s.result.code = 2) && decide (s.rxLast = 0) &&
        decide (s.counters.acksSent = 0) && decide (s.outLen = 0))
      (step (feed (.rAck 200 5 0 .newBlock 0 [1]) [.answer (.chanWrite 2)] (built [212, 5, 0, 5, 204] (on 0 0)))) = true := by decide

/-! ### Lifecycle: 95_test_vectors.md 2.6 -/

/-- LC7: a new session resets the sequence numbers, and keeps the buffers and `DEADLINE`. -/
theorem test_connect_resets_the_session :
    nextIs (fun s => ended .ok 0 s && s.connected && decide (s.txSeq = 0) && decide (s.rxLast = 0xFF) &&
        decide (s.chanHandle = some ⟨2⟩) && decide (s.deadline = 40) && decide (s.txLen = 8))
      (step (feed .lOpen [.answer (.chanOpen (.ok ⟨2⟩))]
        { off with txSeq := 1, rxLast := 3, deadline := 40, txLen := 8 })) = true := by decide
theorem test_connect_while_connected : exec .connect (on 0 0xFF) = .refused .connectWhileConnected := rfl
/-- LC5: a failed close ends the session, with no report. -/
theorem test_disconnect_failed_close :
    nextIs (fun s => ended .channelCode 0 s && decide (s.connected = false) && decide (s.chanHandle = none) &&
        decide (s.result.code = -9) && decide (s.result.report = Counters.zero))
      (step (feed .lClose [.answer (.chanClose (.err (-9)))] { on 1 0xFF with counters := ⟨1, 0, 0, 0, 1, 0⟩ }))
      = true := by decide
theorem test_optimal_block_size : nextIs (ended .ok 70) (exec .optimalBlockSize off) = true := by decide

/-! ### The numbers the interface uses -/

/-- R75. -/
theorem test_status_codes :
    [Status.ok, .usageError, .transportFailure, .giveUp, .channelCode, .illegalCommand, .good, .bad, .frTimeout,
      .frOverflow, .frGot, .frChannelError].map Status.code =
    [0x00, 0x01, 0x02, 0x03, 0x04, 0x05, 0x10, 0x11, 0x20, 0x21, 0x22, 0x23] := by decide

/-- R10, R132: the expected sequence number after −1, 0 and 15. -/
theorem test_expected_sequence : expectedSeq 0xFF = 0 ∧ expectedSeq 0 = 1 ∧ expectedSeq 15 = 0 := by decide

/-- The memory laws keep the canonical form, whichever order the host writes in. -/
theorem test_memory_canonical : Memory.wf (Memory.write (Memory.write [] 3 7) 1 9) ∧
    Memory.write (Memory.write [] 3 7) 1 9 = [(1, 9), (3, 7)] := by decide

/-- The word the host asks about is the next thing taken in, and it is decoded as its row. -/
theorem test_fetch_word : decodeTableWord 32 0x00020814 = some (.extract 8 2) ∧
    decodeTableWord 32 0x01000001 = none ∧ step (State.reset.withFetchWord 32 0x00000005) =
      exec .optimalBlockSize State.reset := ⟨rfl, rfl, rfl⟩


/-! ### Witnesses: for each statement with hypotheses, a state and operands that meet them -/

theorem witness_EncodedCommandsDecodeBack : (Instr.send 255 0).wellFormed = true := by decide

theorem witness_CommandTextsParseBack : (Instr.extract 0 255).wellFormed = true := by decide

theorem witness_LegalWordsEncodeBack : decode 0x00FFC803 = .ok (.send 200 255) := rfl

/-- An idle block to which the host issues the word `w`. -/
def issued (w : Word) (s : State) : State := feed .idle [.command w] s

theorem witness_IllegalCommandOnlyWritesResult :
    let s := issued 0x00000101 (on 0 0xFF)
    s.refused = false ∧ s.ctrl = .idle ∧ s.inputs = [.command 0x00000101] ∧
    decode 0x00000101 = .error .nonzeroA := ⟨rfl, rfl, rfl, rfl⟩

theorem witness_StepRunsTheDecodedCommand :
    let s := issued 0x00050303 (on 0 0xFF)
    s.refused = false ∧ s.ctrl = .idle ∧ s.inputs = [.command 0x00050303] ∧
    decode 0x00050303 = .ok (.send 3 5) := ⟨rfl, rfl, rfl, rfl⟩

/-- An illegal word, a legal one, and a host write. -/
theorem witness_BusyBlockRefusesTheHost :
    (let s := feed .tElapsed [.command 0x00000101] off
     s.refused = false ∧ s.ctrl ≠ .idle ∧ s.inputs = [.command 0x00000101] ∧ decode 0x00000101 = .error .nonzeroA) ∧
    (let s := feed .tElapsed [.command 0x00000001] off
     s.refused = false ∧ s.ctrl ≠ .idle ∧ s.inputs = [.command 0x00000001]) ∧
    (let s := feed .lOpen [.hostWrite ⟨204, by decide⟩ 1] off
     s.refused = false ∧ s.ctrl ≠ .idle ∧ s.inputs = [.hostWrite ⟨204, by decide⟩ 1]) := by decide

theorem witness_HostWriteSetsOneByte :
    (let s := feed .idle [.hostWrite ⟨0, by decide⟩ 7] off
     s.refused = false ∧ s.ctrl = .idle ∧ s.inputs = [.hostWrite ⟨0, by decide⟩ 7]) ∧
    (let s := feed .idle [.hostWrite ⟨204, by decide⟩ 7] off
     s.refused = false ∧ s.ctrl = .idle ∧ s.inputs = [.hostWrite ⟨204, by decide⟩ 7]) := by decide

theorem witness_RefusedMarkStopsTheInstance : State.refused { off with refused := true } = true := rfl

/-- Each of the two answers, and connected. -/
theorem witness_ConnectOpensOrReportsOrIsRefused :
    (let s := feed .idle [.answer (.chanOpen (.ok ⟨1⟩))] off
     s.refused = false ∧ s.connected = false ∧ s.inputs = [.answer (.chanOpen (.ok ⟨1⟩))]) ∧
    (let s := feed .idle [.answer (.chanOpen (.err (-2)))] off
     s.refused = false ∧ s.connected = false ∧ s.inputs = [.answer (.chanOpen (.err (-2)))]) ∧
    (on 0 0xFF).connected = true := by decide

theorem witness_DisconnectEndsTheSession :
    (let s := feed .idle [.answer (.chanClose .ok)] (on 1 0xFF)
     s.refused = false ∧ s.connected = true ∧ s.chanHandle = some ⟨1⟩ ∧ s.inputs = [.answer (.chanClose .ok)]) ∧
    (let s := feed .idle [.answer (.chanClose (.err (-9)))] (on 1 0xFF)
     s.refused = false ∧ s.connected = true ∧ s.chanHandle = some ⟨1⟩ ∧
     s.inputs = [.answer (.chanClose (.err (-9)))]) ∧
    off.connected = false := by decide

theorem witness_DisconnectedCommandsAreUsageErrors : off.connected = false := rfl

theorem witness_SetDeadlineAddsTheDuration :
    let s := feed .idle [clock 3] { off with lastNow := 3 }
    s.refused = false ∧ s.lastNow ≤ 3 ∧ s.inputs = [clock 3] := by decide

/-- At the deadline, and one tick before it. -/
theorem witness_ElapsedComparesInclusively :
    (let s := feed .idle [clock 40] { off with deadline := 40 }
     s.refused = false ∧ s.lastNow ≤ 40 ∧ s.inputs = [clock 40] ∧ s.deadline ≤ 40) ∧
    (let s := feed .idle [clock 39] { off with deadline := 40 }
     s.refused = false ∧ s.lastNow ≤ 39 ∧ s.inputs = [clock 39] ∧ ¬ s.deadline ≤ 39) := by decide

theorem witness_ClockNeverRunsBackwards : ∃ t, step (feed .tElapsed [clock 5] off) = .next t := ⟨_, rfl⟩

/-- What the host wrote is read. -/
theorem host_reads {xs : List Byte} {s : State} {n : Nat} (h : xs.length = n) :
    bufRead (host xs s).hostIn 0 n = some xs := by
  subst h
  exact bufRead_bufWrite [] 0 xs

/-- The total lengths 5 and 205, and 4 and 206. -/
theorem witness_ChecksumAnswersTheSumModulo251 :
    ((4 : Nat) < 5 ∨ 205 < 4) ∧ ((206 : Nat) < 5 ∨ 205 < 206) ∧ (bufRead off.hostIn 0 (5 - 5) = some []) ∧
    (bufRead (host (List.replicate 200 255) off).hostIn 0 (205 - 5) = some (List.replicate 200 255)) :=
  ⟨by decide, by decide, rfl, host_reads List.length_replicate⟩

/-- The payload lengths 0 and 200, and 201. -/
theorem witness_BuildDataPlacesTheFrame :
    (200 < 201) ∧ (bufRead off.hostIn 0 0 = some []) ∧
    (bufRead (host (List.replicate 200 255) off).hostIn 0 200 = some (List.replicate 200 255)) :=
  ⟨by decide, rfl, host_reads List.length_replicate⟩

theorem witness_BuildAckPlacesTheFrame : (0 < 256) ∧ (255 < 256) := by decide

/-- Too many bytes, a frame, and a sequence of bytes that is none. -/
theorem witness_VerifyAnswersTheVerdict :
    (205 < 206) ∧ (bufRead (host [212, 5, 0, 5, 204] off).hostIn 0 5 = some [212, 5, 0, 5, 204] ∧
      ∃ p q, p.length ≤ 200 ∧ [212, 5, 0, 5, 204] = frameOf p q) ∧
    (bufRead off.hostIn 0 0 = some [] ∧ ¬ ∃ p q, p.length ≤ 200 ∧ [] = frameOf p q) := by
  refine ⟨by decide, ⟨by decide, [], 0, by decide, by decide⟩, rfl, ?_⟩
  rintro ⟨p, q, -, h⟩
  simp [frameOf] at h

/-- Too many bytes, two sequences of bytes that are Bad, and the payload lengths 0 and 200. -/
theorem witness_ExtractReturnsTheTruncatedPayload :
    (205 < 206) ∧
    (bufRead (host [212, 5, 0, 6, 204] off).hostIn 0 5 = some [212, 5, 0, 6, 204] ∧
      verifyFrame [212, 5, 0, 6, 204] = .bad) ∧ (bufRead off.hostIn 0 0 = some [] ∧ verifyFrame [] = .bad) ∧
    (bufRead (host (frameOf [] 255) off).hostIn 0 5 = some (frameOf [] 255)) ∧
    (bufRead (host (frameOf (List.replicate 200 255) 15) off).hostIn 0 205 =
      some (frameOf (List.replicate 200 255) 15)) := by
  refine ⟨by decide, by decide, by decide, by decide, host_reads ?_⟩
  simp only [frameOf, List.length_append, List.length_replicate, List.length_cons, List.length_nil]

/-- One byte past what the host wrote, and nothing written at all. -/
theorem witness_UnwrittenHostInputIsRefused :
    bufRead (host [1, 2, 3] off).hostIn 0 (9 - 5) = none ∧ bufRead (host [1, 2, 3] off).hostIn 0 4 = none ∧
    bufRead off.hostIn 0 200 = none ∧ bufRead off.hostIn 0 205 = none ∧ (on 0 0xFF).connected = true ∧
    bufRead (on 0 0xFF).hostIn 0 200 = none := by decide

theorem witness_CodecRoundTrip : (List.replicate 200 (255 : Byte)).length ≤ 200 := le_of_eq List.length_replicate

theorem witness_GoodFramesAreTheBuiltOnes : (List.replicate 205 (0 : Byte)).length ≤ 205 := le_of_eq List.length_replicate

/-- The length byte, and the last payload byte. -/
theorem witness_SingleBitFlipsAreDetected :
    let p : List Byte := [1, 2, 3]
    p.length ≤ 200 ∧ 1 ≤ 1 ∧ 1 < p.length + 3 ∧ 1 ≤ 5 ∧ 5 < p.length + 3 ∧ 7 < 8 := by decide

theorem witness_SumPreservingCorruptionEscapes :
    let p : List Byte := [1, 2, 3]
    let p' : List Byte := [252, 2, 3]
    p.length ≤ 200 ∧ p'.length = p.length ∧
    (p'.map BitVec.toNat).sum % 251 = (p.map BitVec.toNat).sum % 251 := by decide

/-! #### Deliveries -/

/-- A delivery of the acknowledgment frame `[212, 5, q, c, 204]`: an empty answer and a stray byte, then the frame, with an
empty answer before its length byte, and its body in two pieces with an empty answer between; the last clock answer is 39. -/
def ackDelivery (q c : Byte) : Delivery :=
  { noise := [⟨0, []⟩, ⟨1, [0]⟩], markAt := 2, lenWait := [2], lenAt := 3, pieces := [⟨3, [q]⟩, ⟨4, []⟩, ⟨39, [c, 204]⟩] }

theorem ackDelivery_brings (q c : Byte) : (ackDelivery q c).brings 0 40 5 [q, c, 204] := by
  simp [Delivery.brings, Delivery.polls, ackDelivery]

theorem ackDelivery_bringsFrame {dl : Nat} (h : 40 ≤ dl) (q : Byte) :
    (ackDelivery q (checksum q 5 [])).bringsFrame 0 dl [] q := by
  obtain ⟨h1, h2, h3, h4, h5⟩ := ackDelivery_brings q (checksum q 5 [])
  exact ⟨h1, h2, h3, h4, fun p hp => lt_of_lt_of_le (h5 p hp) h⟩

/-- The shortest delivery, of a candidate frame of two bytes: nothing follows the length byte. -/
def shortest : Delivery := { noise := [], markAt := 0, lenWait := [], lenAt := 0, pieces := [] }

theorem shortest_brings (l : Byte) : shortest.brings 0 1 l [] := by
  simp [shortest, Delivery.brings, Delivery.polls]

/-- Vector FR13's answers, on a clock that stands at 0: empty answers before the marker, before the length byte and in the
body. -/
def splitDelivery : Delivery :=
  { noise := [⟨0, []⟩], markAt := 0, lenWait := [0], lenAt := 0,
    pieces := [⟨0, [0, 1]⟩, ⟨0, []⟩, ⟨0, [2, 3, 14]⟩, ⟨0, [204]⟩] }

theorem splitDelivery_brings : splitDelivery.brings 0 40 8 [0, 1, 2, 3, 14, 204] := by
  simp [splitDelivery, Delivery.brings, Delivery.polls]

/-- A delivery as a framer in the hunt finds it, vector FR13's, and the declared lengths 0, 1 and 2. -/
theorem witness_FramerReturnsTheDeliveredFrame :
    (let s := feed (.framerT .readFrame 40 .hunt) (pollInputs ((ackDelivery 3 8).polls 5)) (on 0 0xFF)
     s.refused = false ∧ s.ctrl = .framerT .readFrame 40 .hunt ∧ s.rxLen = 0 ∧ s.chanHandle = some ⟨1⟩ ∧
     (ackDelivery 3 8).brings s.lastNow 40 5 [3, 8, 204] ∧ s.inputs = pollInputs ((ackDelivery 3 8).polls 5) ++ []) ∧
    splitDelivery.brings 0 40 8 [0, 1, 2, 3, 14, 204] ∧
    ∀ l ∈ [(0 : Byte), 1, 2], shortest.brings 0 1 l [] ∧ ([] : List Byte).length + 2 = max l.toNat 2 :=
  ⟨⟨rfl, rfl, rfl, rfl, ackDelivery_brings 3 8, (List.append_nil _).symm⟩, splitDelivery_brings,
    fun l h => ⟨shortest_brings l, by revert l; decide⟩⟩

theorem witness_ReadFrameAnswersTheDeliveredFrame :
    let s := feed .idle (clock 0 :: (pollInputs ((ackDelivery 3 8).polls 5) ++ [])) (on 0 0xFF)
    s.refused = false ∧ s.connected = true ∧ s.chanHandle = some ⟨1⟩ ∧ s.lastNow ≤ 0 ∧
    (ackDelivery 3 8).brings 0 (0 + 4 * s.params.ticksPerSecond) 5 [3, 8, 204] ∧
    s.inputs = clock 0 :: (pollInputs ((ackDelivery 3 8).polls 5) ++ []) :=
  ⟨rfl, rfl, rfl, Nat.le_refl _, ackDelivery_brings 3 8, rfl⟩

/-- At the deadline, in each of the three loops. -/
theorem witness_ElapsedDeadlineEndsTheFramer :
    ∀ ph ∈ [Phase.hunt, .length, .body 8],
      let s := feed (.framerT .readFrame 40 ph) [clock 40] (on 0 0xFF)
      s.refused = false ∧ s.ctrl = .framerT .readFrame 40 ph ∧ s.inputs = [clock 40] ∧ s.lastNow ≤ 40 := by decide

/-- The declared lengths 0, 1 and 2. -/
theorem witness_ShortDeclaredLengthReturnsTwoBytes :
    ∀ l ∈ [(0 : Byte), 1, 2],
      let s := feed (.framerR .readFrame 40 .length) [bytes [l]] (partly [212] (on 0 0xFF))
      s.refused = false ∧ s.ctrl = .framerR .readFrame 40 .length ∧ s.chanHandle = some ⟨1⟩ ∧ s.rxLen = 1 ∧
      l.toNat ≤ 2 ∧ s.inputs = [bytes [l]] := by decide

theorem witness_FullBufferReturnsOverflow :
    let s := feed (.framerT .readFrame 40 (.body 206)) [clock 39] { on 0 0xFF with rxLen := 205 }
    s.refused = false ∧ s.ctrl = .framerT .readFrame 40 (.body 206) ∧ s.rxLen = 205 ∧ s.inputs = [clock 39] ∧
    s.lastNow ≤ 39 ∧ 39 < 40 ∧ Caller.readFrame = .readFrame := by decide

/-- A framer called by `READ_FRAME` that waits for a read, with the given bytes in `RX_BUF`. -/
def reading (ph : Phase) (xs : List Byte) : State :=
  feed (.framerR .readFrame 0 ph) [] (partly xs (on 0 0xFF))

/-- In each of the three loops: in the hunt, at the length byte, and with one byte of the body to come. -/
theorem witness_FramerAsksForNoByteBeyondTheFrame :
    (reading .hunt []).Inv ∧ (reading .length [212]).Inv ∧ (reading (.body 3) [212, 3]).Inv :=
  ⟨⟨by constructor <;> decide, rfl, rfl, trivial, rfl, by decide⟩,
   ⟨by constructor <;> decide, rfl, rfl, trivial, ⟨rfl, rfl⟩, by decide⟩,
   ⟨by constructor <;> decide, rfl, rfl, trivial, ⟨rfl, ⟨3, rfl, rfl⟩, by decide, by decide⟩, by decide⟩⟩

/-- Each of the three callers. -/
theorem witness_ReadErrorEndsTheCommand :
    ∀ c ∈ [Caller.readFrame, .send 3 5, .receive 200 5 0],
      let s := feed (.framerR c 40 .hunt) [.answer (.chanRead (.error (-1)))] (on 0 0xFF)
      s.refused = false ∧ s.ctrl = .framerR c 40 .hunt ∧ s.chanHandle = some ⟨1⟩ ∧ (-1 : Int) < 0 ∧
      s.inputs = [.answer (.chanRead (.error (-1)))] := by decide

/-! #### The engines -/

theorem witness_SendOutsideItsPreconditionIsAUsageError :
    (off.connected = false ∨ 200 < 0) ∧ ((on 0 0xFF).connected = false ∨ 200 < 201) := by decide

theorem witness_NoAttemptsGiveUpAtOnce : (on 0 0xFF).connected = true ∧ 200 ≤ 200 := by decide

theorem witness_SendOffersItsDataFrame :
    let s := host [1, 2, 3] (on 0 0xFF)
    s.connected = true ∧ s.chanHandle = some ⟨1⟩ ∧ 3 ≤ 200 ∧ 1 ≤ 1 ∧ bufRead s.hostIn 0 3 = some [1, 2, 3] := by decide

/-- The frame that attempt 1 built, and the premises of both clauses. -/
theorem witness_SendSucceedsOnAMatchingResponse :
    bufRead (buf (frameOf [7] 15)) 0 (1 + 5) = some (frameOf [7] (seqByte 15)) ∧
    let d := ackDelivery 15 (checksum 15 5 [])
    let s := feed .idle (.answer (.chanWrite ((1 + 5 : Nat) : Int)) :: clock 0 :: (d.inputs [] ++ []))
      (host [7] (on 15 0xFF))
    s.refused = false ∧ s.connected = true ∧ s.chanHandle = some ⟨1⟩ ∧ bufRead s.hostIn 0 1 = some [7] ∧
    (15 : Byte).toNat = s.txSeq.toNat ∧ s.lastNow ≤ 0 ∧
    d.bringsFrame 0 (0 + 4 * s.params.ticksPerSecond) [] 15 ∧
    s.inputs = .answer (.chanWrite ((1 + 5 : Nat) : Int)) :: .answer (.now 0) :: (d.inputs [] ++ []) :=
  ⟨by decide, rfl, rfl, rfl, by decide, rfl, Nat.le_refl _, ackDelivery_bringsFrame (by decide) 15, rfl⟩

/-- An error, one byte short, and a full write. -/
theorem witness_DataFrameWriteIsFullOrEndsTheSend :
    ∀ k ∈ [(-3 : Int), 4, 5],
      let s := feed (.sWrite 0 5) [.answer (.chanWrite k)] (built [212, 5, 0, 5, 204] (on 0 0xFF))
      s.refused = false ∧ s.ctrl = .sWrite 0 5 ∧ s.chanHandle = some ⟨1⟩ ∧
      bufRead s.txBuf 0 s.txLen = some [212, 5, 0, 5, 204] ∧ s.inputs = [.answer (.chanWrite k)] ∧
      (k < (s.txLen : Int) ∨ k = (s.txLen : Int)) := by decide

/-- A Bad frame and a Good one with another sequence field, in attempt 4 of 5 and in the last. -/
theorem witness_LostSendAttemptIsCountedAndRetried :
    bufRead (host [1, 2, 3] (on 0 0xFF)).hostIn 0 3 = some [1, 2, 3] ∧
    bufRead (partly [212, 5, 0, 6, 204] (on 0 0xFF)).rxBuf 0 5 = some [212, 5, 0, 6, 204] ∧
    verifyFrame [212, 5, 0, 6, 204] = .bad ∧ verifyFrame [212, 5, 1, 6, 204] = .good ∧
    (byteAt [212, 5, 1, 6, 204] 2).toNat ≠ (on 0 0xFF).txSeq.toNat ∧
    (attempt 4 (on 0 0xFF)).attempt.toNat < 5 ∧ 5 ≤ (attempt 5 (on 0 0xFF)).attempt.toNat := by decide

/-- Two attempts of 40 ticks: noise up to the last tick before the deadline, then no poll at all. -/
def lostTwice : List LostAttempt := [⟨0, [⟨1, [0]⟩, ⟨39, []⟩], 40⟩, ⟨41, [], 81⟩]

theorem witness_NoResponseGivesUpAfterExactlyTheAttempts :
    let s := feed .idle (lostTwice.flatMap fun x => x.inputs (0 + 5)) (on 0 0xFF)
    s.refused = false ∧ s.connected = true ∧ s.chanHandle = some ⟨1⟩ ∧ bufRead s.hostIn 0 0 = some [] ∧
    1 ≤ lostTwice.length ∧ lostTwice.length ≤ 255 ∧ (∀ x ∈ lostTwice, x.lapses (4 * s.params.ticksPerSecond)) ∧
    (s.lastNow :: lostTwice.flatMap LostAttempt.times).Pairwise (· ≤ ·) ∧
    s.inputs = (lostTwice.flatMap fun x => x.inputs (0 + 5)) ++ [] :=
  ⟨rfl, rfl, rfl, rfl, by decide, by decide,
    (by decide : ∀ x ∈ lostTwice, (∀ p ∈ x.noise, p.bytes.length ≤ 1 ∧ p.bytes ≠ [Config.startMarker] ∧
      p.time < x.setAt + 4 * 10) ∧ x.setAt + 4 * 10 ≤ x.endAt), by decide, (List.append_nil _).symm⟩

/-- What a `RECEIVE` is given: the clock, a delivery of an empty frame with sequence byte `f`, and the answer of the
acknowledgment's write. -/
def receiving (f rx : Byte) : State :=
  feed .idle (clock 0 :: ((ackDelivery f (checksum f 5 [])).inputs [] ++ [.answer (.chanWrite 5)])) (on 0 rx)

theorem receiving_delivers (f rx : Byte) :
    (ackDelivery f (checksum f 5 [])).bringsFrame 0 (0 + 6 * (receiving f rx).params.ticksPerSecond) [] f ∧
    (receiving f rx).inputs = .answer (.now 0) ::
      ((ackDelivery f (checksum f 5 [])).inputs [] ++ .answer (.chanWrite 5) :: []) :=
  ⟨ackDelivery_bringsFrame (show 40 ≤ 0 + 6 * 10 by decide) f, rfl⟩

/-- What `receiving f rx` meets for every `f` and `rx`: the block is connected and the frame of sequence byte `f` arrives. -/
def receives (f rx : Byte) : Prop :=
  let s := receiving f rx
  s.refused = false ∧ s.connected = true ∧ s.chanHandle = some ⟨1⟩ ∧ s.lastNow ≤ 0 ∧ s.rxLast = rx ∧
  (ackDelivery f (checksum f 5 [])).bringsFrame 0 (0 + 6 * s.params.ticksPerSecond) [] f ∧
  s.inputs = .answer (.now 0) :: ((ackDelivery f (checksum f 5 [])).inputs [] ++ .answer (.chanWrite 5) :: [])

theorem receives_all (f rx : Byte) : receives f rx := ⟨rfl, rfl, rfl, Nat.le_refl _, rfl, receiving_delivers f rx⟩

/-- After power-on (−1, 0), and at the wrap (15, 0). -/
theorem witness_ReceiveAcceptsTheExpectedBlock :
    (receives 0 0xFF ∧ ((0 : Nat) : Int) = (sint8 0xFF + 1) % 16 ∧ (0 : Byte).toNat = 0) ∧
    (receives 0 15 ∧ ((0 : Nat) : Int) = (sint8 15 + 1) % 16) :=
  ⟨⟨receives_all _ _, by decide, rfl⟩, receives_all _ _, by decide⟩

theorem witness_ReceiveRedeliversADuplicate :
    receives 3 3 ∧ ((4 : Nat) : Int) = (sint8 3 + 1) % 16 ∧ ((3 : Byte).toNat : Int) = sint8 3 :=
  ⟨receives_all _ _, by decide, by decide⟩

/-- Sequence 5 after 3, and sequence 255 after none; in attempt 4 of 5 and in the last. -/
theorem witness_ReceiveNaksAnOutOfSequenceFrame :
    (receives 5 3 ∧ ((4 : Nat) : Int) = (sint8 3 + 1) % 16 ∧ (5 : Byte).toNat ≠ 4 ∧ ((5 : Byte).toNat : Int) ≠ sint8 3) ∧
    (receives 255 0xFF ∧ ((0 : Nat) : Int) = (sint8 0xFF + 1) % 16 ∧ (255 : Byte).toNat ≠ 0 ∧
      ((255 : Byte).toNat : Int) ≠ sint8 0xFF) ∧ (4 : BitVec 8).toNat < 5 ∧ ¬ (5 : BitVec 8).toNat < 5 :=
  ⟨⟨receives_all _ _, by decide⟩, ⟨receives_all _ _, by decide⟩, by decide⟩

/-- On each of the three paths, one byte short. -/
theorem witness_FailedAckWriteEndsTheReceive :
    ∀ path ∈ [AckPath.newBlock, .duplicate, .outOfSequence],
      let s := feed (.rAck 200 5 0 path 0 []) [.answer (.chanWrite 4)] (built [212, 5, 0, 5, 204] (on 0 0))
      s.refused = false ∧ s.ctrl = .rAck 200 5 0 path 0 [] ∧ s.chanHandle = some ⟨1⟩ ∧
      bufRead s.txBuf 0 s.txLen = some [212, 5, 0, 5, 204] ∧ (4 : Int) < (s.txLen : Int) ∧
      s.inputs = [.answer (.chanWrite 4)] := by decide

theorem witness_LostReceiveAttemptIsCountedAndNotAcknowledged :
    bufRead (partly [212, 5, 0, 6, 204] (on 0 0xFF)).rxBuf 0 5 = some [212, 5, 0, 6, 204] ∧
    verifyFrame [212, 5, 0, 6, 204] = .bad ∧
    (attempt 4 (on 0 0xFF)).attempt.toNat < 5 ∧ 5 ≤ (attempt 5 (on 0 0xFF)).attempt.toNat := by decide

/-! #### The whole machine -/

theorem idle_inv (xs : List Input) : (feed .idle xs off).Inv :=
  ⟨by constructor <;> first
    | rfl
    | exact List.Pairwise.nil
    | exact fun _ h => nomatch h
    | exact ⟨Nat.zero_le _, rfl⟩
    | exact .inl rfl, trivial⟩

theorem connected_inv (xs : List Input) : (feed .idle xs (on 0 0xFF)).Inv :=
  ⟨by constructor <;> first
    | rfl
    | exact List.Pairwise.nil
    | exact fun _ h => nomatch h
    | exact ⟨Nat.zero_le _, rfl⟩
    | exact .inl rfl, trivial⟩

theorem busy_inv (xs : List Input) : (feed .tElapsed xs off).Inv :=
  ⟨by constructor <;> first
    | rfl
    | exact List.Pairwise.nil
    | exact fun _ h => nomatch h
    | exact ⟨Nat.zero_le _, rfl⟩
    | exact .inl rfl, trivial⟩

/-- A `RECEIVE` in its first attempt, to which the last read brings the rest of the expected frame. -/
def accepting : State :=
  feed (.framerR (.receive 200 5 0) 0 (.body 5)) [bytes [0, 5, 204]] (attempt 1 (partly [212, 5] (on 0 0xFF)))

theorem accepting_inv : accepting.Inv :=
  ⟨by constructor <;> decide, rfl, rfl, ⟨by decide, by decide, by decide, by decide, rfl⟩,
    ⟨rfl, ⟨5, rfl, rfl⟩, by decide, by decide⟩, by decide⟩

theorem witness_EveryStepKeepsTheInvariant :
    (feed .tElapsed [clock 5] off).Inv ∧ ∃ t, step (feed .tElapsed [clock 5] off) = .next t :=
  ⟨busy_inv _, _, rfl⟩

theorem witness_NoStepFaults : (reading (.body 3) [212, 3]).Inv := witness_FramerAsksForNoByteBeyondTheFrame.2.2

/-- Each of the five refusals. -/
theorem witness_OnlyTheListedRefusalsOccur :
    ((feed .idle [.command 0x00000001] (on 0 0xFF)).Inv ∧
      step (feed .idle [.command 0x00000001] (on 0 0xFF)) = .refused .connectWhileConnected) ∧
    ((feed .tElapsed [.command 0x00000001] off).Inv ∧
      step (feed .tElapsed [.command 0x00000001] off) = .refused .commandWhileBusy) ∧
    ((feed .tElapsed [.hostWrite ⟨204, by decide⟩ 1] off).Inv ∧
      step (feed .tElapsed [.hostWrite ⟨204, by decide⟩ 1] off) = .refused .hostWriteWhileBusy) ∧
    ((feed .idle [.command 0x00000113] off).Inv ∧
      step (feed .idle [.command 0x00000113] off) = .refused .unwrittenHostInput) ∧
    ((feed .idle [clock 5] off).Inv ∧ step (feed .idle [clock 5] off) = .refused .answerOutsideContract) :=
  ⟨⟨connected_inv _, rfl⟩, ⟨busy_inv _, rfl⟩, ⟨busy_inv _, rfl⟩, ⟨idle_inv _, rfl⟩, ⟨idle_inv _, rfl⟩⟩

/-- One step that changes each register the statement speaks of; the accepted frame from a state that meets the
invariant. -/
theorem witness_RegistersChangeOnlyWhereTheTableSays :
    (∃ t, step (feed .lOpen [.answer (.chanOpen (.ok ⟨2⟩))] { off with txSeq := 1, rxLast := 3 }) = .next t ∧
      t.connected ≠ off.connected ∧ t.chanHandle ≠ off.chanHandle ∧ t.txSeq ≠ 1 ∧ t.rxLast ≠ 3) ∧
    (∃ t, step (feed (.framerR (.send 1 5) 40 (.body 5)) [bytes [15, 20, 204]]
        (attempt 1 (partly [212, 5] (on 15 0xFF)))) = .next t ∧ t.txSeq ≠ 15 ∧ t.rxLen ≠ 2 ∧ t.ctrl = .idle) ∧
    (accepting.Inv ∧ ∃ t, step accepting = .next t ∧ t.rxLast ≠ accepting.rxLast ∧ t.txLen ≠ accepting.txLen ∧
      t.rxBuf ≠ accepting.rxBuf) ∧
    (∃ t, step (feed .idle [.hostWrite ⟨0, by decide⟩ 7] off) = .next t ∧ t.hostIn ≠ off.hostIn) ∧
    (∃ t, step (feed (.tSet 4) [clock 0] off) = .next t ∧ t.deadline ≠ off.deadline) ∧
    (∃ t, step (feed (.rAck 200 5 0 .newBlock 0 [1]) [.answer (.chanWrite 5)] (built [212, 5, 0, 5, 204] (on 0 0))) =
        .next t ∧ t.hostOut ≠ (on 0 0).hostOut ∧ t.outLen ≠ 0 ∧ t.result ≠ (on 0 0).result) ∧
    (∃ t, step (feed .idle [.command 0x00010003] (on 0 0xFF)) = .next t ∧ t.attempt ≠ (on 0 0xFF).attempt ∧
      t.ctrl ≠ .idle ∧ t.txBuf ≠ (on 0 0xFF).txBuf) := by
  refine ⟨⟨_, rfl, ?_⟩, ⟨_, rfl, ?_⟩, ⟨accepting_inv, _, rfl, ?_⟩, ⟨_, rfl, ?_⟩, ⟨_, rfl, ?_⟩, ⟨_, rfl, ?_⟩, _, rfl, ?_⟩ <;>
    decide

theorem witness_CountersMoveByOneAtTheirEvents :
    ∃ t, step (feed (.sWrite 0 5) [.answer (.chanWrite 5)] (built [212, 5, 0, 5, 204] (on 0 0xFF))) = .next t ∧
      t.counters.framesSent = 1 := ⟨_, rfl, by decide⟩

theorem witness_ChannelCallsUseTheOpenHandle :
    (reading .hunt []).Inv ∧ ∃ t, step (reading .hunt []) = .next t :=
  ⟨witness_FramerAsksForNoByteBeyondTheFrame.1, _, rfl⟩

/-- An empty payload of sequence number 0 between two peers: what holds whatever the receiver accepted last. -/
def peersMeet (rx : Byte) : Prop :=
  let d := ackDelivery 0 (checksum 0 5 [])
  let a := feed .idle (.answer (.chanWrite ((0 + 5 : Nat) : Int)) :: clock 0 :: (d.inputs [] ++ [])) (on 0 0xFF)
  let b := receiving 0 rx
  a.refused = false ∧ a.connected = true ∧ a.chanHandle = some ⟨1⟩ ∧
  b.refused = false ∧ b.connected = true ∧ b.chanHandle = some ⟨1⟩ ∧ bufRead a.hostIn 0 0 = some [] ∧
  a.lastNow ≤ 0 ∧ b.lastNow ≤ 0 ∧
  d.bringsFrame 0 (0 + 6 * b.params.ticksPerSecond) [] (seqByte a.txSeq) ∧
  d.bringsFrame 0 (0 + 4 * a.params.ticksPerSecond) [] (seqByte a.txSeq) ∧
  b.inputs = .answer (.now 0) :: (d.inputs [] ++ .answer (.chanWrite 5) :: []) ∧
  a.inputs = .answer (.chanWrite ((0 + 5 : Nat) : Int)) :: .answer (.now 0) :: (d.inputs [] ++ []) ∧
  bufRead (buf (frameOf [] 0)) 0 (0 + 5) = some (frameOf [] (seqByte a.txSeq))

theorem peersMeet_all (rx : Byte) : peersMeet rx :=
  ⟨rfl, rfl, rfl, rfl, rfl, rfl, rfl, Nat.le_refl _, Nat.le_refl _, ackDelivery_bringsFrame (show 40 ≤ 0 + 6 * 10 by decide) 0,
    ackDelivery_bringsFrame (show 40 ≤ 0 + 4 * 10 by decide) 0, rfl, rfl, by decide⟩

/-- Two peers after a `CONNECT` each, and a receiver that has accepted block 0 already. -/
theorem witness_PeersDeliverABlockAndStayInStep :
    (peersMeet 0xFF ∧ inStep (on 0 0xFF) (receiving 0 0xFF) ∧ ((0 : Nat) : Int) = (sint8 0xFF + 1) % 16) ∧
    (peersMeet 0 ∧ sint8 (receiving 0 0).rxLast = ((on 0 0xFF).txSeq.toNat : Int) ∧
      ((1 : Nat) : Int) = (sint8 0 + 1) % 16) :=
  ⟨⟨peersMeet_all _, rfl, by decide⟩, peersMeet_all _, rfl, by decide⟩

end Sys2Proof.Tests
end

/-! The scope statements (spec/00_scope.md): how a command ends, that the clock never runs backwards, and that every
exchange belongs to the open session. The last two rest on one fact, `step_cases_surroundings`: the block's own computation
leaves everything alone that belongs to the host and the environment. -/

namespace Sys2Proof.Machine

/-! ### What the block's computation leaves alone -/

/-- What a meaning of the block never writes: `HOST_IN`, which only the host writes (R35), the mark `REFUSED` (R41), the
parameters (R9), and the environment's side of the five primitives (R14). -/
structure Surroundings where
  hostIn  : Memory
  refused : Bool
  params  : Config.Params
  lastNow : Nat
  inputs  : List Input
  trace   : List Exchange

/-- The surroundings of a state. -/
def State.surroundings (s : State) : Surroundings where
  hostIn  := s.hostIn
  refused := s.refused
  params  := s.params
  lastNow := s.lastNow
  inputs  := s.inputs
  trace   := s.trace

/-- If the outcome is a next state, its surroundings are those of `s`. -/
def KeepsSurroundings (s : State) : Out → Prop
  | .next t    => t.surroundings = s.surroundings
  | .fault _   => True
  | .refused _ => True

/-- The state a step of the framer carries on. -/
def FramerStep.state : FramerStep → State
  | .waitNow _ s  => s
  | .waitRead _ s => s
  | .returns _ s  => s

theorem framerNow_state (dl : Nat) (ph : Phase) (t : Nat) (s : State) : (framerNow dl ph t s).state = s := by
  unfold framerNow
  split
  · rfl
  · cases ph with
    | hunt => rfl
    | length => rfl
    | body g => dsimp only; split <;> rfl

theorem bodyLoop_state (g : Nat) (s : State) : (bodyLoop g s).state = s := by
  unfold bodyLoop
  split <;> rfl

theorem framerRead_surroundings (ph : Phase) (r : ReadAnswer) (s : State) :
    (framerRead ph r s).state.surroundings = s.surroundings := by
  cases r with
  | error c => rfl
  | bytes ys =>
    cases ph with
    | hunt =>
      show (huntRead ys s).state.surroundings = _
      unfold huntRead
      split
      · split <;> rfl
      · rfl
    | length =>
      show (lengthRead ys s).state.surroundings = _
      unfold lengthRead
      split
      · rw [bodyLoop_state]; rfl
      · rfl
    | body g =>
      show (bodyLoop g (s.appendRx ys)).state.surroundings = _
      rw [bodyLoop_state]; rfl

namespace KeepsSurroundings

variable {s : State}

theorem whenConnected {k : Out} (hk : KeepsSurroundings s k) : KeepsSurroundings s (Machine.whenConnected s k) := by
  unfold Machine.whenConnected
  split
  · exact hk
  · rfl

theorem withHostIn (n : Nat) {k : List Byte → Out} (hk : ∀ xs, KeepsSurroundings s (k xs)) :
    KeepsSurroundings s (Machine.withHostIn n s k) := by
  unfold Machine.withHostIn
  split
  · exact hk _
  · trivial

theorem withRxFrame (n : Nat) {k : List Byte → Out} (hk : ∀ f, KeepsSurroundings s (k f)) :
    KeepsSurroundings s (Machine.withRxFrame n s k) := by
  unfold Machine.withRxFrame
  split
  · exact hk _
  · trivial

theorem withBuilt (r : Except Refusal (List Byte)) {s' : State} {k : State → Out}
    (hk : ∀ f, KeepsSurroundings s (k (s'.putTx f))) : KeepsSurroundings s (Machine.withBuilt r s' k) := by
  cases r with
  | ok f => exact hk f
  | error _ => trivial

theorem withExtracted (r : Except Refusal (Byte × List Byte)) {k : Byte → List Byte → Out}
    (hk : ∀ q d, KeepsSurroundings s (k q d)) : KeepsSurroundings s (Machine.withExtracted r k) := by
  cases r with
  | ok x => exact hk x.1 x.2
  | error _ => trivial

/-! The two engines. -/

theorem sendAttempt (len m n : Nat) (s : State) : KeepsSurroundings s (Machine.sendAttempt len m n s) := by
  unfold Machine.sendAttempt
  split
  · exact withHostIn _ fun p => withBuilt _ fun f => rfl
  · rfl

theorem sendOutcome (len m : Nat) (o : FramerOutcome) (s : State) :
    KeepsSurroundings s (Machine.sendOutcome len m o s) := by
  cases o with
  | timeout => exact sendAttempt ..
  | overflow => exact sendAttempt ..
  | channelError c => rfl
  | got n =>
    refine withRxFrame _ fun f => ?_
    split
    · exact sendAttempt ..
    · unfold sendResponse
      dsimp only
      split
      · rfl
      · exact sendAttempt ..

theorem receiveAttempt (ms m e n : Nat) (s : State) : KeepsSurroundings s (Machine.receiveAttempt ms m e n s) := by
  unfold Machine.receiveAttempt
  split <;> rfl

theorem receiveOutcome (ms m e : Nat) (o : FramerOutcome) (s : State) :
    KeepsSurroundings s (Machine.receiveOutcome ms m e o s) := by
  cases o with
  | timeout => exact receiveAttempt ..
  | overflow => exact receiveAttempt ..
  | channelError c => rfl
  | got n =>
    refine withRxFrame _ fun f => ?_
    split
    · exact receiveAttempt ..
    · refine withExtracted _ fun q d => ?_
      unfold receiveFrame
      dsimp only
      rw [sendAck_eq]
      rfl

theorem ackWrote (ms m e : Nat) (path : AckPath) (d : List Byte) (k : Int) (s : State) :
    KeepsSurroundings s (Machine.ackWrote ms m e path d k s) := by
  unfold Machine.ackWrote
  split
  · rfl
  · cases path with
    | newBlock => rfl
    | duplicate => rfl
    | outOfSequence => exact receiveAttempt ..

/-! The framer. -/

theorem of_surroundings_eq {s u : State} {o : Out} (h : KeepsSurroundings u o) (hu : u.surroundings = s.surroundings) :
    KeepsSurroundings s o := by
  cases o with
  | next t => exact Eq.trans h hu
  | fault _ => trivial
  | refused _ => trivial

theorem framerReturn (c : Caller) (o : FramerOutcome) (s : State) :
    KeepsSurroundings s (Machine.framerReturn c o s) := by
  cases c with
  | readFrame => cases o <;> rfl
  | send len m => exact sendOutcome ..
  | receive ms m e => exact receiveOutcome ..

theorem framerGoesOn (c : Caller) (dl : Nat) (x : FramerStep) :
    KeepsSurroundings x.state (Machine.framerGoesOn c dl x) := by
  cases x with
  | waitNow ph s => rfl
  | waitRead ph s => rfl
  | returns o s => exact framerReturn c o s

theorem framerNow (c : Caller) (dl : Nat) (ph : Phase) (t : Nat) (s : State) :
    KeepsSurroundings s (Machine.framerGoesOn c dl (Machine.framerNow dl ph t s)) :=
  (framerGoesOn c dl _).of_surroundings_eq (congrArg State.surroundings (framerNow_state dl ph t s))

theorem framerRead (c : Caller) (dl : Nat) (ph : Phase) (r : ReadAnswer) (s : State) :
    KeepsSurroundings s (Machine.framerGoesOn c dl (Machine.framerRead ph r s)) :=
  (framerGoesOn c dl _).of_surroundings_eq (framerRead_surroundings ph r s)

/-! A command's issue, and an answer. -/

theorem exec (i : Instr) (s : State) : KeepsSurroundings s (Machine.exec i s) := by
  cases i with
  | connect =>
    show KeepsSurroundings s (execConnect s)
    unfold execConnect
    split
    · trivial
    · rfl
  | disconnect => exact whenConnected rfl
  | send len m =>
    show KeepsSurroundings s (execSend len m s)
    unfold execSend
    split
    · rfl
    · exact sendAttempt ..
  | receive ms m => exact whenConnected (receiveAttempt ..)
  | optimalBlockSize => rfl
  | checksum seq tlen =>
    show KeepsSurroundings s (execChecksum seq tlen s)
    unfold execChecksum
    split
    · rfl
    · exact withHostIn _ fun p => rfl
  | buildData len seq =>
    show KeepsSurroundings s (execBuildData len seq s)
    unfold execBuildData
    split
    · rfl
    · exact withHostIn _ fun p => withBuilt _ fun f => rfl
  | buildAck seq =>
    show KeepsSurroundings s (execBuildAck seq s)
    exact withBuilt _ fun f => rfl
  | verify n =>
    show KeepsSurroundings s (execVerify n s)
    unfold execVerify
    split
    · rfl
    · refine withHostIn _ fun f => ?_
      split <;> rfl
  | extract n max =>
    show KeepsSurroundings s (execExtract n max s)
    unfold execExtract
    split
    · rfl
    · refine withHostIn _ fun f => ?_
      split
      · rfl
      · exact withExtracted _ fun q d => rfl
  | readFrame secs => exact whenConnected rfl
  | setDeadline secs => rfl
  | elapsed => rfl

theorem afterAnswer (a : Answer) (s : State) : KeepsSurroundings s (Machine.afterAnswer a s) := by
  unfold Machine.afterAnswer
  split
  next r _ => cases r <;> rfl   -- `L_OPEN`
  next r _ => cases r <;> rfl   -- `L_CLOSE`
  next => rfl                   -- `T_SET`
  next => rfl                   -- `T_ELAPSED`
  next => rfl                   -- `F_CMD_T`
  next => exact framerNow ..    -- `F_HUNT_T`, `F_LEN_T`, `F_BODY_T`
  next => exact framerRead ..   -- `F_HUNT_R`, `F_LEN_R`, `F_BODY_R`
  next =>                       -- `S_WRITE`
    unfold sendWrote
    split <;> rfl
  next => rfl                   -- `S_DL`
  next => rfl                   -- `R_DL`
  next => exact ackWrote ..     -- `R_ACK`
  next => trivial               -- an answer of another primitive

theorem issue (w : Word) (s : State) : KeepsSurroundings s (Machine.issue w s) := by
  unfold Machine.issue
  split
  · cases decode w with
    | ok i => exact exec i s
    | error _ => rfl
  · trivial

end KeepsSurroundings

/-! ### What a step does to the surroundings -/

/-- Everything a step can do to the surroundings: nothing is taken in; or the host writes a byte; or a command is issued; or
the environment answers the call the state waits for, within its contract, and the one exchange is recorded. -/
theorem step_cases_surroundings {s t : State} (h : step s = .next t) :
    (s.inputs = [] ∧ t = s) ∨
    (∃ i b xs, s.inputs = .hostWrite i b :: xs ∧
      t.surroundings = { s.surroundings with inputs := xs, hostIn := s.hostIn.write i.val b }) ∨
    (∃ w xs, s.inputs = .command w :: xs ∧ t.surroundings = { s.surroundings with inputs := xs }) ∨
    ∃ a c xs, s.inputs = .answer a :: xs ∧ s.waiting = .call c ∧ c.admits s.lastNow a = true ∧
      t.surroundings = { s.surroundings with
        inputs := xs, lastNow := a.clock s.lastNow, trace := ⟨c, a⟩ :: s.trace } := by
  rcases step_cases s with ⟨-, e⟩ | ⟨-, hi, e⟩ | ⟨-, x, xs, hi, e⟩ <;> rw [e] at h
  · cases h
  · exact .inl ⟨hi, by cases h; rfl⟩
  · cases x with
    | hostWrite i b =>
      refine .inr (.inl ⟨i, b, xs, hi, ?_⟩)
      simp only [accept, hostWrite] at h
      split at h
      · cases h; rfl
      · cases h
    | command w =>
      refine .inr (.inr (.inl ⟨w, xs, hi, ?_⟩))
      have hk := KeepsSurroundings.issue w { s with inputs := xs }
      rw [accept] at h
      rwa [h] at hk
    | answer a =>
      rw [accept] at h
      rcases resume_cases a { s with inputs := xs } with ⟨c, hw, ha, e⟩ | ⟨f, -, e⟩ | ⟨e, -⟩
      · have hk := KeepsSurroundings.afterAnswer a (State.exchange { s with inputs := xs } c a)
        rw [← e, h] at hk
        exact .inr (.inr (.inr ⟨a, c, xs, hi, hw, ha, hk⟩))
      · rw [e] at h; cases h
      · rw [e] at h; cases h

/-- A step makes no exchange, or exactly one, of the call the state waits for and within its contract (R14). -/
theorem step_exchanges_at_most_once {s t : State} (h : step s = .next t) :
    (t.lastNow = s.lastNow ∧ t.trace = s.trace) ∨
    ∃ c a, s.waiting = .call c ∧ c.admits s.lastNow a = true ∧
      t.lastNow = a.clock s.lastNow ∧ t.trace = ⟨c, a⟩ :: s.trace := by
  rcases step_cases_surroundings h with ⟨-, rfl⟩ | ⟨i, b, xs, -, e⟩ | ⟨w, xs, -, e⟩ | ⟨a, c, xs, -, hw, ha, e⟩
  · exact .inl ⟨rfl, rfl⟩
  · exact .inl ⟨congrArg Surroundings.lastNow e, congrArg Surroundings.trace e⟩
  · exact .inl ⟨congrArg Surroundings.lastNow e, congrArg Surroundings.trace e⟩
  · exact .inr ⟨c, a, hw, ha, congrArg Surroundings.lastNow e, congrArg Surroundings.trace e⟩

/-! ### The call a control point makes -/

/-- R32, R155, R170: `ChanOpen` belongs to a disconnected state and carries `CONFIG`; the other channel primitives belong to
the open session and carry its handle; the clock may be read at any time. -/
def State.ownsCall (s : State) : Call → Prop
  | .now           => True
  | .chanOpen cfg  => s.connected = false ∧ cfg = s.params.channel
  | .chanClose h   => s.connected = true ∧ s.chanHandle = some h
  | .chanWrite h _ => s.connected = true ∧ s.chanHandle = some h
  | .chanRead h _  => s.connected = true ∧ s.chanHandle = some h

/-- A call formed with the handle carries the handle. -/
theorem withHandle_call {s : State} {k : Handle → Waiting} {c : Call} (h : s.withHandle k = .call c) :
    ∃ d, s.chanHandle = some d ∧ k d = .call c := by
  unfold State.withHandle at h
  split at h
  next d hd => exact ⟨d, hd, h⟩
  next => cases h

theorem writeCall_call {s : State} {c : Call} (h : s.writeCall = .call c) :
    ∃ d xs, s.chanHandle = some d ∧ c = .chanWrite d xs := by
  obtain ⟨d, hd, hk⟩ := withHandle_call h
  split at hk
  next xs _ => cases hk; exact ⟨d, xs, hd, rfl⟩
  next => cases hk

theorem ownsCall_writeCall {s : State} {c : Call} (hc : s.connected = true) (h : s.writeCall = .call c) :
    s.ownsCall c := by
  obtain ⟨d, xs, hd, rfl⟩ := writeCall_call h
  exact ⟨hc, hd⟩

/-- Under the invariant, the call of every control point belongs to the session the state is in. -/
theorem State.Inv.ownsCall {s : State} {c : Call} (hs : s.Inv) (hw : s.waiting = .call c) : s.ownsCall c := by
  have hctl := hs.control
  unfold State.ctrlOk at hctl
  unfold State.waiting at hw
  cases hc : s.ctrl <;> rw [hc] at hctl hw
  case idle => cases hw
  case lOpen => cases hw; exact ⟨hctl, rfl⟩
  case lClose =>
    obtain ⟨d, hd, hk⟩ := withHandle_call hw
    cases hk; exact ⟨hctl, hd⟩
  case framerR =>
    obtain ⟨d, hd, hk⟩ := withHandle_call hw
    cases hk; exact ⟨hctl.1, hd⟩
  case sWrite => exact ownsCall_writeCall hctl.1 hw
  case rAck => exact ownsCall_writeCall hctl.1 hw
  all_goals cases hw; trivial

/-! ### The obligations -/

/-- Settles O19: a step's one exchange is admitted, and an admitted answer never sets the clock back. -/
theorem clockNeverRunsBackwards : Obligations.ClockNeverRunsBackwards := by
  intro s t h
  rcases step_exchanges_at_most_once h with ⟨hn, -⟩ | ⟨c, a, -, ha, hn, -⟩
  · exact hn.ge
  · rw [hn]
    exact clock_le_of_admits ha

/-- Settles O55: a step's one exchange is of the call the state waits for, which the invariant ties to the session. -/
theorem channelCallsUseTheOpenHandle : Obligations.ChannelCallsUseTheOpenHandle := by
  intro s t hs h
  rcases step_exchanges_at_most_once h with ⟨-, ht⟩ | ⟨c, a, hw, ha, -, ht⟩
  · exact .inl ht
  · refine .inr ⟨c, a, ht, hw, ha, ?_⟩
    have ho := hs.ownsCall hw
    cases c <;> exact ho

/-- Settles O11: the definitions of `finish`, `plain` and `withCode`, field by field. -/
theorem finishWritesResultAndReturnsToIdle : Obligations.FinishWritesResultAndReturnsToIdle :=
  ⟨fun _ _ => rfl, fun _ => rfl, fun _ _ => rfl⟩

end Sys2Proof.Machine

/-! ### The word of a command, and the command of a word (spec/30_encoding.md R73, R76) -/

namespace Sys2Proof

theorem needZeroA_eq_ok {w : Word} {r : Except DecodeError Instr} {i : Instr} :
    needZeroA w r = .ok i ↔ aField w = 0 ∧ r = .ok i := by
  unfold needZeroA
  split <;> simp_all

theorem needZeroB_eq_ok {w : Word} {r : Except DecodeError Instr} {i : Instr} :
    needZeroB w r = .ok i ↔ bField w = 0 ∧ r = .ok i := by
  unfold needZeroB
  split <;> simp_all

theorem operandFits_aField (w : Word) : operandFits (aField w) = true := decide_eq_true (BitVec.isLt _)

theorem operandFits_bField (w : Word) : operandFits (bField w) = true := decide_eq_true (BitVec.isLt _)

/-- R73: a word with `Z = 0` is the word of its fields. -/
theorem wordOfFields_fields {w : Word} (hz : zField w = 0) : wordOfFields (bField w) (aField w) (opField w) = w := by
  have hz' : w.extractLsb' 24 8 = 0#8 := BitVec.eq_of_toNat_eq hz
  simp only [wordOfFields, bField, aField, opField, BitVec.ofNat_toNat, BitVec.setWidth_eq, ← hz']
  rw [BitVec.extractLsb'_append_extractLsb'_eq_extractLsb' (show 24 = 16 + 8 from rfl),
    BitVec.extractLsb'_append_extractLsb'_eq_extractLsb' (show 16 = 8 + 8 from rfl),
    BitVec.extractLsb'_append_extractLsb'_eq_extractLsb' (show 8 = 0 + 8 from rfl)]
  exact BitVec.extractLsb'_eq_self

/-- R76: the row of a legal word gives the command its `OP` and its operands, and operands are bytes. -/
theorem decodeOp_eq_ok {w : Word} {op : Nat} {i : Instr} (h : decodeOp w op = .ok i) :
    i.opcode = op ∧ i.operandA = aField w ∧ i.operandB = bField w ∧ i.wellFormed = true := by
  unfold decodeOp at h
  split at h <;> simp only [needZeroA_eq_ok, needZeroB_eq_ok, Except.ok.injEq, reduceCtorEq] at h
  all_goals
    try casesm* _ ∧ _
    subst i
    simp [*, Instr.opcode, Instr.operandA, Instr.operandB, Instr.wellFormed, operandFits_aField, operandFits_bField]

/-- R73, R76: a legal word is the word of its command, whose operands are bytes. -/
theorem decode_eq_ok {w : Word} {i : Instr} (h : decode w = .ok i) : encode i = w ∧ i.wellFormed = true := by
  unfold decode at h
  split at h
  next hz =>
    obtain ⟨hop, ha, hb, hwf⟩ := decodeOp_eq_ok h
    exact ⟨by rw [encode, hop, ha, hb, wordOfFields_fields hz], hwf⟩
  next => cases h

end Sys2Proof

/-! The state statements (spec/10_state.md). The invariant rests on `Safe`: under the invariant the block's computation ends
in no fault, and a next state meets the invariant. The tables of what changes where rest on `Move`, which lists every way
in which one item from outside takes the block to a next state; each register then has one lemma over the moves. -/

namespace Sys2Proof.Machine

/-- A buffer byte after a write, by its index (R45). -/
theorem Memory.read_write (m : Memory) (i : Nat) (v : Byte) (j : Nat) :
    (m.write i v).read j = if j = i then some v else m.read j := by
  split
  next h => rw [h, Memory.read_write_same]
  next h => exact Memory.read_write_other m v h

/-- The outcome is no fault, and a next state meets the invariant. A refusal ends the run and is allowed. -/
def Safe : Out → Prop
  | .next t    => t.Inv
  | .fault _   => False
  | .refused _ => True

/-! ### What the invariant asks at each control point -/

section
variable {s : State}

theorem State.ctrlOk_idle (hc : s.ctrl = .idle) : s.ctrlOk := by simp [State.ctrlOk, hc]

theorem State.ctrlOk_lOpen (hc : s.ctrl = .lOpen) : s.ctrlOk ↔ s.connected = false := by simp [State.ctrlOk, hc]

theorem State.ctrlOk_lClose (hc : s.ctrl = .lClose) : s.ctrlOk ↔ s.connected = true := by simp [State.ctrlOk, hc]

theorem State.ctrlOk_tSet {secs : Nat} (hc : s.ctrl = .tSet secs) : s.ctrlOk ↔ secs ≤ 255 := by
  simp [State.ctrlOk, hc]

theorem State.ctrlOk_tElapsed (hc : s.ctrl = .tElapsed) : s.ctrlOk := by simp [State.ctrlOk, hc]

theorem State.ctrlOk_fCmdT {secs : Nat} (hc : s.ctrl = .fCmdT secs) :
    s.ctrlOk ↔ s.connected = true ∧ secs ≤ 255 := by simp [State.ctrlOk, hc]

theorem State.ctrlOk_framerT {c : Caller} {dl : Nat} {ph : Phase} (hc : s.ctrl = .framerT c dl ph) :
    s.ctrlOk ↔ s.connected = true ∧ dl = s.deadline ∧ s.callerOk c ∧ s.phaseOk ph := by simp [State.ctrlOk, hc]

theorem State.ctrlOk_framerR {c : Caller} {dl : Nat} {ph : Phase} (hc : s.ctrl = .framerR c dl ph) :
    s.ctrlOk ↔ s.connected = true ∧ dl = s.deadline ∧ s.callerOk c ∧ s.phaseOk ph ∧ s.rxLen < 205 := by
  simp [State.ctrlOk, hc]

theorem State.ctrlOk_sWrite {l m : Nat} (hc : s.ctrl = .sWrite l m) :
    s.ctrlOk ↔ s.connected = true ∧ s.sendOk l m := by simp [State.ctrlOk, hc]

theorem State.ctrlOk_sDl {l m : Nat} (hc : s.ctrl = .sDl l m) : s.ctrlOk ↔ s.connected = true ∧ s.sendOk l m := by
  simp [State.ctrlOk, hc]

theorem State.ctrlOk_rDl {ms m e : Nat} (hc : s.ctrl = .rDl ms m e) :
    s.ctrlOk ↔ s.connected = true ∧ s.receiveOk ms m e := by simp [State.ctrlOk, hc]

/-- R146: what holds while an acknowledgment is being written, on every path. -/
def State.ackWriting (s : State) (ms m e : Nat) (path : AckPath) (f : Byte) (d : List Byte) : Prop :=
  s.connected = true ∧ ms ≤ 255 ∧ 1 ≤ s.attempt.toNat ∧ s.attempt.toNat ≤ m ∧ m ≤ 255 ∧ e < 16 ∧ d.length ≤ ms ∧
  d.length ≤ 200 ∧ s.txLen = 5 ∧ bufRead s.txBuf 0 5 = some (frameOf [] (echoOf path f s.rxLast)) ∧ s.ackOk e path f

theorem State.ctrlOk_rAck {ms m e : Nat} {path : AckPath} {f : Byte} {d : List Byte}
    (hc : s.ctrl = .rAck ms m e path f d) : s.ctrlOk ↔ s.ackWriting ms m e path f d := by
  simp [State.ctrlOk, State.ackWriting, hc]

end

/-- What a caller's condition speaks of. -/
def State.callerRegs (s : State) : BitVec 8 × Nat × Memory × Memory × BitVec 4 × Byte :=
  (s.attempt, s.txLen, s.txBuf, s.hostIn, s.txSeq, s.rxLast)

/-- A caller's condition carries over to a state with the same registers of the caller. -/
theorem State.callerOk_congr {s t : State} {c : Caller} (h : s.callerOk c) (e : t.callerRegs = s.callerRegs) :
    t.callerOk c := by
  simp only [State.callerRegs, Prod.mk.injEq] at e
  obtain ⟨ha, hl, hb, hi, hq, hr⟩ := e
  cases c with
  | readFrame => trivial
  | send l m => simpa only [State.callerOk, State.sendOk, ha, hl, hb, hi, hq] using h
  | receive ms m e => simpa only [State.callerOk, State.receiveOk, ha, hr] using h

/-- What a loop of the framer asks speaks of `RX_BUF` and `RX_LEN` only. -/
theorem State.phaseOk_congr {s t : State} {ph : Phase} (h : s.phaseOk ph)
    (e : (t.rxBuf, t.rxLen) = (s.rxBuf, s.rxLen)) : t.phaseOk ph := by
  obtain ⟨hb, hl⟩ := Prod.mk.inj e
  cases ph <;> simpa only [State.phaseOk, hb, hl] using h

/-- What a control point asks does not depend on the exchanges made so far. -/
theorem State.ctrlOk_exchange {s : State} (h : s.ctrlOk) (c : Call) (a : Answer) : (s.exchange c a).ctrlOk := by
  obtain ⟨ct, hc⟩ : ∃ ct, s.ctrl = ct := ⟨_, rfl⟩
  have hc' : (s.exchange c a).ctrl = ct := hc
  cases ct with
  | framerT cl dl ph =>
    obtain ⟨hs, hd, hcl, hp⟩ := (ctrlOk_framerT hc).1 h
    exact (ctrlOk_framerT hc').2 ⟨hs, hd, callerOk_congr hcl rfl, phaseOk_congr hp rfl⟩
  | framerR cl dl ph =>
    obtain ⟨hs, hd, hcl, hp, hn⟩ := (ctrlOk_framerR hc).1 h
    exact (ctrlOk_framerR hc').2 ⟨hs, hd, callerOk_congr hcl rfl, phaseOk_congr hp rfl, hn⟩
  | _ =>
    unfold State.ctrlOk at h ⊢
    rw [hc] at h
    rw [hc']
    exact h

/-- Counting an event touches nothing that soundness speaks of. -/
theorem State.Sound.count {s : State} (h : s.Sound) (c : Counters) : State.Sound { s with counters := c } := { h with }

theorem State.Inv.exchange {s : State} (h : s.Inv) (c : Call) (a : Answer) : (s.exchange c a).Inv :=
  { h.toSound.exchange c a with control := State.ctrlOk_exchange h.control c a }

theorem State.Inv.takeInput {s : State} (h : s.Inv) (xs : List Input) : State.Inv { s with inputs := xs } :=
  { h.toSound.takeInput xs with control := State.ctrlOk_takeInput h.control xs }

/-- Under the invariant the call of a control point can be formed (R43, R98). -/
theorem State.Inv.waiting_ne_broken {s : State} (h : s.Inv) (f : Fault) : s.waiting ≠ .broken f := by
  have hs := h.toSound
  have hk := h.control
  have writes (hc : s.connected = true) : s.writeCall ≠ .broken f := by
    obtain ⟨d, hd⟩ := hs.handle hc
    obtain ⟨xs, hx⟩ := hs.txFrame
    simp [writeCall_written hd hx]
  unfold State.waiting
  cases hc : s.ctrl with
  | lClose =>
    obtain ⟨d, hd⟩ := hs.handle ((State.ctrlOk_lClose hc).1 hk)
    simp [withHandle_some hd]
  | framerR c dl ph =>
    obtain ⟨d, hd⟩ := hs.handle ((State.ctrlOk_framerR hc).1 hk).1
    simp [withHandle_some hd]
  | sWrite l m => exact writes ((State.ctrlOk_sWrite hc).1 hk).1
  | rAck ms m e path f d => exact writes ((State.ctrlOk_rAck hc).1 hk).1
  | _ => simp

/-! ### Operations that end or begin a command -/

namespace Safe

variable {s : State}

theorem done (h : s.Sound) (r : Result) : Safe (done r s) := { h.finish r with control := trivial }

theorem waits (h : s.Sound) (ct : Ctrl) (hc : State.ctrlOk { s with ctrl := ct }) : Safe (.next { s with ctrl := ct }) :=
  { h with control := hc }

theorem whenConnected (h : s.Sound) {k : Out} (hk : s.connected = true → Safe k) : Safe (whenConnected s k) := by
  cases hc : s.connected with
  | true => rw [whenConnected_connected hc]; exact hk hc
  | false => rw [whenConnected_disconnected hc]; exact done h _

theorem withHostIn (n : Nat) {k : List Byte → Out} (hk : ∀ xs, bufRead s.hostIn 0 n = some xs → Safe (k xs)) :
    Safe (withHostIn n s k) := by
  rcases hx : bufRead s.hostIn 0 n with _ | xs
  · rw [withHostIn_unwritten hx]; trivial
  · rw [withHostIn_written hx]; exact hk xs hx

/-! ### The retry loops -/

theorem sendAttempt (h : s.Sound) (hc : s.connected = true) {len m n : Nat} (hl : len ≤ 200) (h1 : 1 ≤ n)
    (hm : m ≤ 255) : Safe (sendAttempt len m n s) := by
  rcases sendAttempt_cases s m n hl with ⟨-, e⟩ | ⟨-, -, e⟩ | ⟨hn, p, hp, e⟩ <;> rw [e]
  · exact done h _
  · trivial
  · obtain rfl := bufRead_length hp
    have hf := length_frameOf p (seqByte s.txSeq)
    have hs := h.putTx (f := frameOf p (seqByte s.txSeq)) (by omega)
    rw [← hf]
    refine { hs with control := (State.ctrlOk_sWrite rfl).2 ⟨hc, hl, ?_, ?_, hm, hf, p, hp, bufRead_bufWrite _ _ _⟩ }
    · simp; omega
    · simp; omega

theorem sendRetry (h : s.Sound) (hc : s.connected = true) {len m : Nat} (hs : s.sendOk len m) :
    Safe (sendRetry len m s) := by
  obtain ⟨hl, -, -, hm, -⟩ := hs
  exact sendAttempt h hc hl (by omega) hm

theorem receiveAttempt (h : s.Sound) (hc : s.connected = true) {ms m e n : Nat} (hms : ms ≤ 255) (h1 : 1 ≤ n)
    (hm : m ≤ 255) (he : e = expectedSeq s.rxLast) : Safe (receiveAttempt ms m e n s) := by
  rcases Nat.lt_or_ge m n with hn | hn
  · rw [receiveAttempt_givesUp hn]
    exact done h _
  · rw [receiveAttempt_waits hn]
    refine { h with control := (State.ctrlOk_rDl rfl).2 ⟨hc, hms, ?_, ?_, hm, he⟩ }
    · simp; omega
    · simp; omega

theorem receiveRetry (h : s.Sound) (hc : s.connected = true) {ms m e : Nat} (hr : s.receiveOk ms m e) :
    Safe (receiveRetry ms m e s) := by
  obtain ⟨hms, -, -, hm, he⟩ := hr
  exact receiveAttempt h hc hms (by omega) hm he

/-! ### The framer's outcome at its caller -/

theorem sendOutcome (h : s.Sound) (hc : s.connected = true) {len m : Nat} (hs : s.sendOk len m) (o : FramerOutcome)
    (ho : ∀ n, o = .got n → n ≤ s.rxLen) : Safe (sendOutcome len m o s) := by
  cases o with
  | channelError c => exact done h _
  | timeout => exact sendRetry (h.count s.counters.countTimeout) hc hs
  | overflow => exact sendRetry (h.count s.counters.countTimeout) hc hs
  | got n =>
    obtain ⟨f, hf⟩ := h.rxFrame (ho n rfl)
    cases hv : verifyFrame f with
    | bad =>
      rw [sendOutcome_bad hf hv]
      exact sendRetry (h.count s.counters.countBadRx) hc hs
    | good =>
      rw [sendOutcome_good hf hv]
      unfold sendResponse
      dsimp only
      split
      · exact { h with control := trivial }
      · exact sendRetry (h.count s.counters.countAckRx) hc hs

/-- An acknowledgment is offered on a path whose condition holds. -/
theorem sendAck (h : s.Sound) (hc : s.connected = true) {ms m e : Nat} {path : AckPath} {f : Byte} {d : List Byte}
    (hms : ms ≤ 255) (h1 : 1 ≤ s.attempt.toNat) (hn : s.attempt.toNat ≤ m) (hm : m ≤ 255) (he : e < 16)
    (hd : d.length ≤ ms) (hd' : d.length ≤ 200) (hok : s.ackOk e path f) : Safe (sendAck ms m e path f d s) := by
  have hs := h.putTx (f := frameOf [] (echoOf path f s.rxLast)) (by simp [length_frameOf])
  have hw := bufRead_bufWrite s.txBuf 0 (frameOf [] (echoOf path f s.rxLast))
  have hok' : State.ackOk { s with ctrl := .rAck ms m e path f d } e path f := by cases path <;> exact hok
  rw [sendAck_eq]
  exact { hs with control := (State.ctrlOk_rAck rfl).2 ⟨hc, hms, h1, hn, hm, he, hd, hd', rfl, hw, hok'⟩ }

theorem receiveFrame (h : s.Sound) (hc : s.connected = true) {ms m e : Nat} (hr : s.receiveOk ms m e) (f : Byte)
    {d : List Byte} (hd : d.length ≤ ms) (hd' : d.length ≤ 200) : Safe (receiveFrame ms m e f d s) := by
  obtain ⟨hms, h1, hn, hm, rfl⟩ := hr
  have he := expectedSeq_lt s.rxLast
  unfold Machine.receiveFrame
  dsimp only
  rcases classify_cases f (expectedSeq s.rxLast) s.rxLast with ⟨e, hf⟩ | ⟨e, -, hf⟩ | ⟨e, hne, hf⟩ <;> rw [e]
  · have ha : (s.accept .newBlock f).Sound := { h with rxLast := rxLegal_of_lt (b := f) (by omega) }
    exact sendAck ha hc hms h1 hn hm he hd hd' ⟨hf, rfl⟩
  · exact sendAck h hc hms h1 hn hm he hd hd' ⟨eq_of_toNat_eq_sint8 hf, rfl⟩
  · exact sendAck h hc hms h1 hn hm he hd hd' ⟨hne, hf, rfl⟩

theorem receiveOutcome (h : s.Sound) (hc : s.connected = true) {ms m e : Nat} (hr : s.receiveOk ms m e)
    (o : FramerOutcome) (ho : ∀ n, o = .got n → n ≤ s.rxLen) : Safe (receiveOutcome ms m e o s) := by
  cases o with
  | channelError c => exact done h _
  | timeout => exact receiveRetry (h.count s.counters.countTimeout) hc hr
  | overflow => exact receiveRetry (h.count s.counters.countTimeout) hc hr
  | got n =>
    obtain ⟨f, hf⟩ := h.rxFrame (ho n rfl)
    cases hv : verifyFrame f with
    | bad =>
      rw [receiveOutcome_bad hf hv]
      exact receiveRetry (h.count s.counters.countBadRx) hc hr
    | good =>
      have hn : n ≤ 205 := (ho n rfl).trans h.rxHolds.1
      have hd := length_slice_le f 3 (3 + min ((byteAt f 1).toNat - 5) ms)
      have hl := bufRead_length hf
      obtain ⟨-, hb, -⟩ := (verifyFrame_good_iff f).1 hv
      rw [receiveOutcome_good hf hv]
      exact receiveFrame (h.count s.counters.countGoodRx) hc hr _ (by omega) (by omega)

theorem framerReturn (h : s.Sound) (hc : s.connected = true) {c : Caller} (hcl : s.callerOk c) (o : FramerOutcome)
    (ho : ∀ n, o = .got n → n ≤ s.rxLen) : Safe (framerReturn c o s) := by
  cases c with
  | readFrame => cases o <;> exact done h _
  | send len m => exact sendOutcome h hc hcl o ho
  | receive ms m e => exact receiveOutcome h hc hcl o ho

/-! ### The framer -/

section
variable {c : Caller} {dl : Nat} (h : s.Sound) (hc : s.connected = true) (hcl : s.callerOk c) (hd : dl = s.deadline)
include h hc hcl hd

theorem framerWaits {ph : Phase} (hp : s.phaseOk ph) : Safe (.next { s with ctrl := .framerT c dl ph }) :=
  waits h _ ((State.ctrlOk_framerT rfl).2 ⟨hc, hd, State.callerOk_congr hcl rfl, State.phaseOk_congr hp rfl⟩)

theorem framerNow {ph : Phase} (hp : s.phaseOk ph) (t : Nat) :
    Safe (framerGoesOn c dl (framerNow dl ph t s)) := by
  rcases Nat.lt_or_ge t dl with ht | ht
  · by_cases hr : s.rxLen < 205
    · rw [framerNow_room ht hr]
      exact waits h _ ((State.ctrlOk_framerR rfl).2
        ⟨hc, hd, State.callerOk_congr hcl rfl, State.phaseOk_congr hp rfl, hr⟩)
    · have hr' : s.rxLen = 205 := le_antisymm h.rxHolds.1 (Nat.le_of_not_lt hr)
      cases ph with
      | hunt => exact absurd (hp.symm.trans hr') (by decide)
      | length => exact absurd (hp.1.symm.trans hr') (by decide)
      | body g =>
        rw [framerNow_full ht g hr']
        exact framerReturn h hc hcl _ (by simp)
  · rw [framerNow_elapsed ht]
    exact framerReturn h hc hcl _ (by simp)

theorem bodyLoop {l : Byte} (h0 : s.rxBuf.read 0 = some 212) (h1 : s.rxBuf.read 1 = some l)
    (h2 : 2 ≤ s.rxLen) (hg : s.rxLen ≤ targetOf l) : Safe (framerGoesOn c dl (bodyLoop (targetOf l) s)) := by
  by_cases e : s.rxLen = targetOf l
  · rw [bodyLoop_complete e]
    exact framerReturn h hc hcl _ (by rintro n ⟨⟩; exact e.ge)
  · rw [bodyLoop_open e]
    exact framerWaits h hc hcl hd ⟨h0, ⟨l, h1, rfl⟩, h2, lt_of_le_of_ne hg e⟩

theorem huntRead (hp : s.phaseOk .hunt) (ys : List Byte) : Safe (framerGoesOn c dl (huntRead ys s)) := by
  have hn : s.rxLen = 0 := hp
  unfold Machine.huntRead
  split
  next b =>
    split
    next hb =>
      refine framerWaits (h.appendRx (ys := [b]) (by simp [hn])) hc (State.callerOk_congr hcl rfl) hd ⟨?_, ?_⟩
      · simp [hn]
      · simp [hn, hb, bufWrite, Memory.read_write_same]
    next => exact framerWaits h hc hcl hd hp
  next => exact framerWaits h hc hcl hd hp

theorem lengthRead (hp : s.phaseOk .length) (ys : List Byte) : Safe (framerGoesOn c dl (lengthRead ys s)) := by
  obtain ⟨hn, h0⟩ := id hp
  unfold Machine.lengthRead
  split
  next b =>
    refine bodyLoop (h.appendRx (ys := [b]) (by simp [hn])) hc (State.callerOk_congr hcl rfl) hd ?_ ?_ ?_ ?_
    · rw [State.appendRx_rxBuf, read_bufWrite_outside _ _ _ (.inl (by omega)), h0]
    · simp [hn, bufWrite, Memory.read_write_same]
    · simp [hn]
    · simp [hn, targetOf]
  next => exact framerWaits h hc hcl hd hp

theorem framerRead {ph : Phase} (hp : s.phaseOk ph) {r : ReadAnswer}
    (hr : ∀ ys, r = .bytes ys → ys.length ≤ readSize s.rxLen ph) :
    Safe (framerGoesOn c dl (framerRead ph r s)) := by
  cases r with
  | error k => exact framerReturn h hc hcl _ (by simp)
  | bytes ys =>
    have hy := hr ys rfl
    cases ph with
    | hunt => exact huntRead h hc hcl hd hp ys
    | length => exact lengthRead h hc hcl hd hp ys
    | body g =>
      obtain ⟨h0, ⟨l, h1, rfl⟩, h2, hg⟩ := hp
      have hlen := h.rxHolds.1
      simp only [readSize, frameBufCap_eq] at hy hlen
      refine bodyLoop (h.appendRx (by omega)) hc (State.callerOk_congr hcl rfl) hd ?_ ?_ ?_ ?_
      · rw [State.appendRx_rxBuf, read_bufWrite_outside _ _ _ (.inl (by omega)), h0]
      · rw [State.appendRx_rxBuf, read_bufWrite_outside _ _ _ (.inl (by omega)), h1]
      · rw [State.appendRx_rxLen]; omega
      · rw [State.appendRx_rxLen]; omega

end

theorem startFramer (h : s.Sound) (hc : s.connected = true) {c : Caller} (hcl : s.callerOk c) (dl : Nat) :
    Safe (startFramer c dl { s with deadline := dl }) :=
  framerWaits (s := { s with deadline := dl, rxLen := 0 }) { h with rxHolds := ⟨Nat.zero_le _, rfl⟩ } hc
    (State.callerOk_congr hcl rfl) rfl (ph := .hunt) rfl

/-! ### An answer -/

theorem ackWrote (h : s.Sound) {ms m e : Nat} {path : AckPath} {f : Byte} {d : List Byte}
    (hw : s.ackWriting ms m e path f d) (k : Int) : Safe (ackWrote ms m e path d k s) := by
  obtain ⟨hc, hms, h1, hn, hm, -, -, hd, -, -, hok⟩ := hw
  unfold Machine.ackWrote
  split
  · exact done h _
  · cases path with
    | newBlock => exact done ((h.count s.counters.countAckSent).putOut hd) _
    | duplicate => exact done ((h.count s.counters.countAckSent).putOut hd) _
    | outOfSequence =>
      obtain ⟨-, -, he⟩ := hok
      exact receiveRetry (h.count s.counters.countAckSent) hc ⟨hms, h1, hn, hm, he⟩

/-- Under the invariant, every answer of the called primitive leads to a state that meets it, provided that a read of the
channel brings no more than was asked for. -/
theorem afterAnswer (h : s.Inv) {a : Answer}
    (hr : ∀ c dl ph ys, s.ctrl = .framerR c dl ph → a = .chanRead (.bytes ys) → ys.length ≤ readSize s.rxLen ph) :
    Safe (afterAnswer a s) := by
  have hs := h.toSound
  have hk := h.control
  unfold Machine.afterAnswer
  split
  -- `L_OPEN`
  case h_1 r hc =>
    cases r with
    | ok d => exact done (hs.openSession d) _
    | err c => exact done hs _
  -- `L_CLOSE`
  case h_2 r hc => cases r <;> exact done hs.closeSession _
  -- `T_SET`
  case h_3 secs t hc => exact { hs with control := trivial }
  -- `T_ELAPSED`
  case h_4 t hc => exact done hs _
  -- `F_CMD_T`
  case h_5 secs t hc =>
    obtain ⟨hcon, -⟩ := (State.ctrlOk_fCmdT hc).1 hk
    exact startFramer hs hcon (c := .readFrame) trivial _
  -- `F_HUNT_T`, `F_LEN_T`, `F_BODY_T`
  case h_6 c dl ph t hc =>
    obtain ⟨hcon, hd, hcl, hp⟩ := (State.ctrlOk_framerT hc).1 hk
    exact framerNow hs hcon hcl hd hp t
  -- `F_HUNT_R`, `F_LEN_R`, `F_BODY_R`
  case h_7 c dl ph r hc =>
    obtain ⟨hcon, hd, hcl, hp, -⟩ := (State.ctrlOk_framerR hc).1 hk
    exact framerRead hs hcon hcl hd hp fun ys e => hr c dl ph ys hc (e ▸ rfl)
  -- `S_WRITE`
  case h_8 l m k hc =>
    obtain ⟨hcon, hok⟩ := (State.ctrlOk_sWrite hc).1 hk
    unfold sendWrote
    split
    · exact done hs _
    · exact { hs with control := (State.ctrlOk_sDl rfl).2 ⟨hcon, hok⟩ }
  -- `S_DL`
  case h_9 l m t hc =>
    obtain ⟨hcon, hok⟩ := (State.ctrlOk_sDl hc).1 hk
    exact startFramer hs hcon (c := .send l m) hok _
  -- `R_DL`
  case h_10 ms m e t hc =>
    obtain ⟨hcon, hok⟩ := (State.ctrlOk_rDl hc).1 hk
    exact startFramer hs hcon (c := .receive ms m e) hok _
  -- `R_ACK`
  case h_11 ms m e path f d k hc => exact ackWrote hs ((State.ctrlOk_rAck hc).1 hk) k
  -- an answer of another primitive
  case h_12 => trivial

theorem resume (h : s.Inv) (a : Answer) : Safe (resume a s) := by
  rcases resume_cases a s with ⟨c, hw, ha, e⟩ | ⟨f, hw, -⟩ | ⟨e, -⟩
  · rw [e]
    refine afterAnswer (h.exchange c a) fun cl dl ph ys hc hy => ?_
    have hc' : s.ctrl = .framerR cl dl ph := hc
    subst hy
    simp only [State.waiting, hc'] at hw
    obtain ⟨d, -, hd⟩ := withHandle_call hw
    cases hd
    simpa [Call.admits] using ha
  · exact absurd hw (h.waiting_ne_broken f)
  · rw [e]; trivial

/-! ### A command -/

theorem exec (h : s.Sound) {i : Instr} (hi : i.wellFormed = true) : Safe (exec i s) := by
  cases i with
  | connect =>
    show Safe (execConnect s)
    unfold execConnect
    split
    · trivial
    next hc => exact waits h _ ((State.ctrlOk_lOpen rfl).2 (by simpa using hc))
  | disconnect => exact whenConnected h fun hc => waits h _ ((State.ctrlOk_lClose rfl).2 hc)
  | send len m =>
    show Safe (execSend len m s)
    obtain ⟨-, hm⟩ : len < 256 ∧ m < 256 := by simpa [Instr.wellFormed, operandFits] using hi
    unfold execSend
    split
    · exact done h _
    next hc =>
      simp only [not_or, Bool.not_eq_false, Config.maxPayload] at hc
      exact sendAttempt h hc.1 (by omega) le_rfl (by omega)
  | receive ms m =>
    obtain ⟨hms, hm⟩ : ms < 256 ∧ m < 256 := by simpa [Instr.wellFormed, operandFits] using hi
    exact whenConnected h fun hc => receiveAttempt h hc (by omega) le_rfl (by omega) rfl
  | optimalBlockSize => exact done h _
  | checksum seq tlen =>
    show Safe (execChecksum seq tlen s)
    unfold execChecksum
    split
    · exact done h _
    · exact withHostIn _ fun p _ => done h _
  | buildData len seq =>
    show Safe (execBuildData len seq s)
    unfold execBuildData
    split
    · exact done h _
    next hl =>
      refine withHostIn _ fun p hp => ?_
      have hp' := bufRead_length hp
      simp only [Config.maxPayload] at hl
      rw [withBuilt_ok (buildDataFrame_ok _ (by omega))]
      exact done (h.putTx (by rw [length_frameOf]; omega)) _
  | buildAck seq =>
    show Safe (execBuildAck seq s)
    unfold execBuildAck
    rw [withBuilt_ok (buildAckFrame_ok _)]
    exact done (h.putTx (by simp [length_frameOf])) _
  | verify n =>
    show Safe (execVerify n s)
    unfold execVerify
    split
    · exact done h _
    · refine withHostIn _ fun f _ => ?_
      split <;> exact done h _
  | extract n max =>
    show Safe (execExtract n max s)
    unfold execExtract
    split
    · exact done h _
    next hn =>
      refine withHostIn _ fun f hf => ?_
      split
      · exact done h _
      next hv =>
        have hl := bufRead_length hf
        have hd := length_slice_le f 3 (3 + min ((byteAt f 1).toNat - 5) max)
        obtain ⟨-, hb, -⟩ := (verifyFrame_good_iff f).1 hv
        rw [hostBufCap_eq] at hn
        rw [withExtracted_ok (extractPayload_good max hv)]
        exact done (h.putOut (by omega)) _
  | readFrame secs =>
    have hsecs : secs < 256 := by simpa [Instr.wellFormed, operandFits] using hi
    exact whenConnected h fun hc => waits h _ ((State.ctrlOk_fCmdT rfl).2 ⟨hc, by omega⟩)
  | setDeadline secs =>
    have hsecs : secs < 256 := by simpa [Instr.wellFormed, operandFits] using hi
    exact waits h _ ((State.ctrlOk_tSet rfl).2 (by omega))
  | elapsed => exact waits h _ (State.ctrlOk_tElapsed rfl)

theorem issue (h : s.Sound) (w : Word) : Safe (issue w s) := by
  unfold Machine.issue
  split
  · rcases hd : decode w with _ | i
    · exact done h _
    · exact exec h (decode_eq_ok hd).2
  · trivial

theorem hostWrite (h : s.Sound) (i : Fin Config.hostBufCap) (b : Byte) : Safe (hostWrite i b s) := by
  unfold Machine.hostWrite
  split
  next hc => exact { h.hostWrite i b with control := State.ctrlOk_idle hc }
  · trivial

/-- From a state that meets the invariant a step is safe. -/
theorem step (h : s.Inv) : Safe (step s) := by
  rcases step_cases s with ⟨-, e⟩ | ⟨-, -, e⟩ | ⟨-, x, xs, -, e⟩ <;> rw [e]
  · trivial
  · exact h
  · have hx := h.takeInput xs
    cases x with
    | hostWrite i b => exact hostWrite hx.toSound i b
    | command w => exact issue hx.toSound w
    | answer a => exact resume hx a

end Safe

/-! ### The moves of the block -/

/-- An attempt of the command of caller `c` is lost: where the block stands then, what the framer has left in `RX_BUF` and
`RX_LEN`, and the counters after the event is counted. -/
inductive Lost (s : State) : Caller → Memory → Nat → Counters → Prop
  /-- R122, R135: the framer reports `Timeout` or `Overflow` -/
  | timeout {c : Caller} {dl : Nat} {ph : Phase} (hc : s.ctrl = .framerT c dl ph) (hr : c ≠ .readFrame) :
      Lost s c s.rxBuf s.rxLen s.counters.countTimeout
  /-- R122, R135: the frame read is Bad -/
  | bad {c : Caller} {dl : Nat} {ph : Phase} (ys : List Byte) (hc : s.ctrl = .framerR c dl ph) (hr : c ≠ .readFrame) :
      Lost s c (bufWrite s.rxBuf s.rxLen ys) (s.rxLen + ys.length) s.counters.countBadRx
  /-- R123: the response read is a negative acknowledgment -/
  | negative {len m dl : Nat} {ph : Phase} (ys : List Byte) (hc : s.ctrl = .framerR (.send len m) dl ph) :
      Lost s (.send len m) (bufWrite s.rxBuf s.rxLen ys) (s.rxLen + ys.length) s.counters.countAckRx
  /-- R138: the frame received is out of sequence and its acknowledgment is written -/
  | outOfSequence {ms m e : Nat} {f : Byte} {d : List Byte} (hc : s.ctrl = .rAck ms m e .outOfSequence f d) :
      Lost s (.receive ms m e) s.rxBuf s.rxLen s.counters.countAckSent

/-- The state after a lost attempt is counted. -/
def State.counted (s : State) (rb : Memory) (rl : Nat) (k : Counters) : State :=
  { s with rxBuf := rb, rxLen := rl, counters := k }

/-- Every way in which one item from outside takes the block to a next state: the item, the registers it finds, the
registers it leaves. -/
inductive Move (s : State) : Input → State → Prop
  /-- R35, R72 -/
  | hostWrites {i : Fin Config.hostBufCap} {b : Byte} (hc : s.ctrl = .idle) :
      Move s (.hostWrite i b) { s with hostIn := s.hostIn.write i.val b }
  /-- a command waits at its first control point, and nothing else changes -/
  | issued {w : Word} (ct : Ctrl) (hc : s.ctrl = .idle) : Move s (.command w) { s with ctrl := ct }
  /-- a command ends in the step that issues it, and only its result changes -/
  | endsAtOnce {w : Word} (r : Result) (hc : s.ctrl = .idle) : Move s (.command w) (s.finish r)
  /-- R92 -/
  | buildsData (len q : Nat) (f : List Byte) (r : Result) (hc : s.ctrl = .idle) :
      Move s (.command (encode (.buildData len q))) ((s.putTx f).finish r)
  /-- R93 -/
  | buildsAck (q : Nat) (f : List Byte) (r : Result) (hc : s.ctrl = .idle) :
      Move s (.command (encode (.buildAck q))) ((s.putTx f).finish r)
  /-- R95 -/
  | extracts (n max : Nat) (d : List Byte) (r : Result) (hc : s.ctrl = .idle) (hr : r.status = .ok) :
      Move s (.command (encode (.extract n max))) ((s.putOut d).finish r)
  /-- R118: the first attempt -/
  | sendStarts (len m : Nat) (f : List Byte) (hc : s.ctrl = .idle) :
      Move s (.command (encode (.send len m))) { s.putTx f with attempt := 1, ctrl := .sWrite len m }
  /-- R134: the first attempt -/
  | receiveStarts (ms m e : Nat) (hc : s.ctrl = .idle) :
      Move s (.command (encode (.receive ms m))) { s with attempt := 1, ctrl := .rDl ms m e }
  /-- R149 -/
  | opens {a : Answer} (h : Handle) (r : Result) (hc : s.ctrl = .lOpen) : Move s (.answer a) ((s.openSession h).finish r)
  /-- R150 -/
  | closes {a : Answer} (r : Result) (hc : s.ctrl = .lClose) : Move s (.answer a) (s.closeSession.finish r)
  /-- R113 -/
  | setsDeadline {a : Answer} {secs : Nat} (n : Nat) (r : Result) (hc : s.ctrl = .tSet secs) :
      Move s (.answer a) (State.finish { s with deadline := n } r)
  /-- R103: the framer starts -/
  | framerStarts {a : Answer} (c : Caller) (n : Nat)
      (hc : (∃ secs, s.ctrl = .fCmdT secs) ∨ (∃ len m, s.ctrl = .sDl len m) ∨ ∃ ms m e, s.ctrl = .rDl ms m e) :
      Move s (.answer a) { s with deadline := n, rxLen := 0, ctrl := .framerT c n .hunt }
  /-- R103: the deadline has not elapsed, and the framer reads -/
  | framerReads {a : Answer} {c : Caller} {dl : Nat} {ph : Phase} (ph' : Phase) (hc : s.ctrl = .framerT c dl ph) :
      Move s (.answer a) { s with ctrl := .framerR c dl ph' }
  /-- R103: the framer has read and goes on -/
  | framerPolls {a : Answer} {c : Caller} {dl : Nat} {ph : Phase} (ph' : Phase) (ys : List Byte)
      (hc : s.ctrl = .framerR c dl ph) : Move s (.answer a) { s.appendRx ys with ctrl := .framerT c dl ph' }
  /-- R107: `READ_FRAME` has its frame -/
  | framerGot {a : Answer} {dl : Nat} {ph : Phase} (ys : List Byte) (r : Result)
      (hc : s.ctrl = .framerR .readFrame dl ph) : Move s (.answer a) ((s.appendRx ys).finish r)
  /-- a running command ends, and only its result changes -/
  | ends {a : Answer} (r : Result) (hc : s.ctrl ≠ .idle) : Move s (.answer a) (s.finish r)
  /-- R120: the data frame is written whole -/
  | frameSent {a : Answer} {len m : Nat} (hc : s.ctrl = .sWrite len m) :
      Move s (.answer a) { s with counters := s.counters.countFrameSent, ctrl := .sDl len m }
  /-- R123: a positive acknowledgment -/
  | acknowledged {a : Answer} {len m dl : Nat} {ph : Phase} (ys : List Byte)
      (hc : s.ctrl = .framerR (.send len m) dl ph) :
      Move s (.answer a) (State.finish
        { s.appendRx ys with counters := s.counters.countAckRx, txSeq := nextTxSeq s.txSeq } (Result.plain .ok))
  /-- R136, R137, R138: a Good frame is received, and its acknowledgment offered -/
  | offersAck {a : Answer} {ms m e dl : Nat} {ph : Phase} {p : AckPath} {q : Byte} (ys d f : List Byte)
      (hc : s.ctrl = .framerR (.receive ms m e) dl ph) (hp : p = .newBlock → q.toNat = e) :
      Move s (.answer a) { ((s.appendRx ys).accept p q).putTx f with
        counters := s.counters.countGoodRx, ctrl := .rAck ms m e p q d }
  /-- R136, R137: the acknowledgment is written whole, and the data goes to the host -/
  | delivers {a : Answer} {ms m e : Nat} {p : AckPath} {q : Byte} {d : List Byte} (hc : s.ctrl = .rAck ms m e p q d)
      (hp : p ≠ .outOfSequence) :
      Move s (.answer a) (State.finish { s.putOut d with counters := s.counters.countAckSent }
        (Result.withValue .ok d.length))
  /-- R118: the next attempt -/
  | sendRetries {a : Answer} {len m : Nat} {rb : Memory} {rl : Nat} {k : Counters} (f : List Byte)
      (hl : Lost s (.send len m) rb rl k) :
      Move s (.answer a) { (s.counted rb rl k).putTx f with attempt := s.attempt + 1, ctrl := .sWrite len m }
  /-- R134: the next attempt -/
  | receiveRetries {a : Answer} {ms m e : Nat} {rb : Memory} {rl : Nat} {k : Counters}
      (hl : Lost s (.receive ms m e) rb rl k) :
      Move s (.answer a) { s.counted rb rl k with attempt := s.attempt + 1, ctrl := .rDl ms m e }
  /-- R124, R140: the attempts are exhausted -/
  | givesUp {a : Answer} {c : Caller} {rb : Memory} {rl : Nat} {k : Counters} (r : Result) (hl : Lost s c rb rl k) :
      Move s (.answer a) ((s.counted rb rl k).finish r)

/-- The framer has placed bytes, perhaps none, after what `RX_BUF` held, and goes on polling or returns a frame. -/
inductive FramerStep.Placed (s : State) : FramerStep → Prop
  | polls (ph : Phase) (ys : List Byte) : Placed s (.waitNow ph (s.appendRx ys))
  | got (n : Nat) (ys : List Byte) : Placed s (.returns (.got n) (s.appendRx ys))

/-! ### What a shared operation has done when it answers a next state -/

section
variable {s t : State}

theorem whenConnected_next {k : Out} (h : whenConnected s k = .next t) :
    (s.connected = true ∧ k = .next t) ∨ t = s.finish (Result.plain .usageError) := by
  cases hc : s.connected with
  | true => exact .inl ⟨rfl, by rwa [whenConnected_connected hc] at h⟩
  | false => rw [whenConnected_disconnected hc] at h; cases h; exact .inr rfl

theorem withHostIn_next {n : Nat} {k : List Byte → Out} (h : withHostIn n s k = .next t) :
    ∃ xs, bufRead s.hostIn 0 n = some xs ∧ k xs = .next t := by
  rcases hx : bufRead s.hostIn 0 n with _ | xs
  · rw [withHostIn_unwritten hx] at h; cases h
  · rw [withHostIn_written hx] at h; exact ⟨xs, rfl, h⟩

theorem withRxFrame_next {n : Nat} {k : List Byte → Out} (h : withRxFrame n s k = .next t) :
    ∃ f, bufRead s.rxBuf 0 n = some f ∧ k f = .next t := by
  unfold withRxFrame at h
  split at h
  next f hf => exact ⟨f, hf, h⟩
  next => cases h

theorem withBuilt_next {r : Except Refusal (List Byte)} {k : State → Out} (h : withBuilt r s k = .next t) :
    ∃ f, r = .ok f ∧ k (s.putTx f) = .next t := by
  cases r with
  | ok f => exact ⟨f, rfl, h⟩
  | error e => cases h

theorem withExtracted_next {r : Except Refusal (Byte × List Byte)} {k : Byte → List Byte → Out}
    (h : withExtracted r k = .next t) : ∃ q d, r = .ok (q, d) ∧ k q d = .next t := by
  cases r with
  | ok x => exact ⟨x.1, x.2, rfl, h⟩
  | error e => cases h

theorem sendAttempt_next {len m n : Nat} (h : sendAttempt len m n s = .next t) :
    t = s.finish (Result.plain .giveUp) ∨
    ∃ f, t = { s.putTx f with attempt := BitVec.ofNat 8 n, ctrl := .sWrite len m } := by
  unfold sendAttempt at h
  split at h
  · obtain ⟨p, -, h⟩ := withHostIn_next h
    obtain ⟨f, -, h⟩ := withBuilt_next h
    cases h
    exact .inr ⟨f, rfl⟩
  · cases h
    exact .inl rfl

theorem receiveAttempt_next {ms m e n : Nat} (h : receiveAttempt ms m e n s = .next t) :
    t = s.finish (Result.plain .giveUp) ∨ t = { s with attempt := BitVec.ofNat 8 n, ctrl := .rDl ms m e } := by
  rcases Nat.lt_or_ge m n with hn | hn
  · rw [receiveAttempt_givesUp hn] at h; cases h; exact .inl rfl
  · rw [receiveAttempt_waits hn] at h; cases h; exact .inr rfl

/-- A new block carries the expected number (R136). -/
theorem eq_of_classify_newBlock {q : Byte} {e : Nat} {r : Byte} (h : classify q e r = .newBlock) : q.toNat = e := by
  rcases classify_cases q e r with ⟨-, hq⟩ | ⟨hp, -⟩ | ⟨hp, -⟩
  · exact hq
  · cases hp.symm.trans h
  · cases hp.symm.trans h

theorem framerNow_cases (dl : Nat) (ph : Phase) (n : Nat) (s : State) :
    framerNow dl ph n s = .waitRead ph s ∨ framerNow dl ph n s = .returns .timeout s ∨
    framerNow dl ph n s = .returns .overflow s := by
  rcases Nat.lt_or_ge n dl with hn | hn
  · cases ph with
    | hunt => exact .inl (framerNow_waits hn (by simp))
    | length => exact .inl (framerNow_waits hn (by simp))
    | body g =>
      by_cases hr : s.rxLen = 205
      · exact .inr (.inr (framerNow_full hn g hr))
      · exact .inl (framerNow_waits hn fun _ _ => hr)
  · exact .inr (.inl (framerNow_elapsed hn ph s))

theorem bodyLoop_placed (g : Nat) (ys : List Byte) : (bodyLoop g (s.appendRx ys)).Placed s := by
  by_cases h : (s.appendRx ys).rxLen = g
  · rw [bodyLoop_complete h]; exact .got g ys
  · rw [bodyLoop_open h]; exact .polls _ ys

theorem huntRead_placed (ys : List Byte) : (huntRead ys s).Placed s := by
  unfold huntRead
  split
  next b =>
    split
    · exact .polls _ [b]
    · exact .polls _ []
  next => exact .polls _ []

theorem lengthRead_placed (ys : List Byte) : (lengthRead ys s).Placed s := by
  unfold lengthRead
  split
  next b => exact bodyLoop_placed _ [b]
  next => exact .polls _ []

/-- Everything the framer can do with an answer of the channel. -/
theorem framerRead_cases (ph : Phase) (r : ReadAnswer) (s : State) :
    (∃ k, framerRead ph r s = .returns (.channelError k) s) ∨ (framerRead ph r s).Placed s := by
  cases r with
  | error k => exact .inl ⟨k, rfl⟩
  | bytes ys =>
    cases ph with
    | hunt => exact .inr (huntRead_placed ys)
    | length => exact .inr (lengthRead_placed ys)
    | body g => exact .inr (bodyLoop_placed g ys)

end

/-! ### Every next state is reached by a move -/

namespace Move

variable {s t : State} {a : Answer}

theorem of_sendRetry {len m : Nat} {rb : Memory} {rl : Nat} {k : Counters} (hl : Lost s (.send len m) rb rl k)
    (h : sendRetry len m (s.counted rb rl k) = .next t) : Move s (.answer a) t := by
  rcases sendAttempt_next h with rfl | ⟨f, rfl⟩
  · exact .givesUp _ hl
  · rw [ofNat_succ_attempt]
    exact .sendRetries f hl

theorem of_receiveRetry {ms m e : Nat} {rb : Memory} {rl : Nat} {k : Counters} (hl : Lost s (.receive ms m e) rb rl k)
    (h : receiveRetry ms m e (s.counted rb rl k) = .next t) : Move s (.answer a) t := by
  rcases receiveAttempt_next h with rfl | rfl
  · exact .givesUp _ hl
  · rw [ofNat_succ_attempt]
    exact .receiveRetries hl

/-- The framer returns after a clock answer. -/
theorem of_lapse {c : Caller} {dl : Nat} {ph : Phase} (hc : s.ctrl = .framerT c dl ph) {o : FramerOutcome}
    (ho : o = .timeout ∨ o = .overflow) (h : framerReturn c o s = .next t) : Move s (.answer a) t := by
  cases c with
  | readFrame => rcases ho with rfl | rfl <;> cases h <;> exact .ends _ (by simp [hc])
  | send len m => rcases ho with rfl | rfl <;> exact of_sendRetry (.timeout hc (by simp)) h
  | receive ms m e => rcases ho with rfl | rfl <;> exact of_receiveRetry (.timeout hc (by simp)) h

/-- The framer returns a read error. -/
theorem of_readError {c : Caller} {dl : Nat} {ph : Phase} (hc : s.ctrl = .framerR c dl ph) {k : Int}
    (h : framerReturn c (.channelError k) s = .next t) : Move s (.answer a) t := by
  have hne : s.ctrl ≠ .idle := by simp [hc]
  cases c <;> cases h <;> exact .ends _ hne

theorem of_sendGot {len m dl : Nat} {ph : Phase} (hc : s.ctrl = .framerR (.send len m) dl ph) {n : Nat} {ys : List Byte}
    (h : sendOutcome len m (.got n) (s.appendRx ys) = .next t) : Move s (.answer a) t := by
  obtain ⟨f, hf, -⟩ := withRxFrame_next h
  cases hv : verifyFrame f with
  | bad =>
    rw [sendOutcome_bad hf hv] at h
    exact of_sendRetry (.bad ys hc (by simp)) h
  | good =>
    rw [sendOutcome_good hf hv] at h
    unfold sendResponse at h
    dsimp only at h
    split at h
    · cases h
      exact .acknowledged ys hc
    · exact of_sendRetry (.negative ys hc) h

theorem of_receiveGot {ms m e dl : Nat} {ph : Phase} (hc : s.ctrl = .framerR (.receive ms m e) dl ph) {n : Nat}
    {ys : List Byte} (h : receiveOutcome ms m e (.got n) (s.appendRx ys) = .next t) : Move s (.answer a) t := by
  obtain ⟨f, hf, -⟩ := withRxFrame_next h
  cases hv : verifyFrame f with
  | bad =>
    rw [receiveOutcome_bad hf hv] at h
    exact of_receiveRetry (.bad ys hc (by simp)) h
  | good =>
    rw [receiveOutcome_good hf hv] at h
    unfold receiveFrame sendAck at h
    obtain ⟨g, -, h⟩ := withBuilt_next h
    cases h
    exact .offersAck ys _ g hc eq_of_classify_newBlock

/-- The framer returns a frame. -/
theorem of_got {c : Caller} {dl : Nat} {ph : Phase} (hc : s.ctrl = .framerR c dl ph) {n : Nat} {ys : List Byte}
    (h : framerReturn c (.got n) (s.appendRx ys) = .next t) : Move s (.answer a) t := by
  cases c with
  | readFrame => cases h; exact .framerGot ys _ hc
  | send len m => exact of_sendGot hc h
  | receive ms m e => exact of_receiveGot hc h

theorem of_ackWrote {ms m e : Nat} {p : AckPath} {q : Byte} {d : List Byte} (hc : s.ctrl = .rAck ms m e p q d) {k : Int}
    (h : ackWrote ms m e p d k s = .next t) : Move s (.answer a) t := by
  unfold ackWrote at h
  split at h
  · cases h; exact .ends _ (by simp [hc])
  · cases p with
    | newBlock => cases h; exact .delivers hc (by simp)
    | duplicate => cases h; exact .delivers hc (by simp)
    | outOfSequence => exact of_receiveRetry (.outOfSequence hc) h

theorem of_afterAnswer (h : afterAnswer a s = .next t) : Move s (.answer a) t := by
  unfold afterAnswer at h
  split at h
  -- `L_OPEN`
  case h_1 r hc =>
    cases r with
    | ok d => cases h; exact .opens d _ hc
    | err c => cases h; exact .ends _ (by simp [hc])
  -- `L_CLOSE`
  case h_2 r hc => cases r <;> cases h <;> exact .closes _ hc
  -- `T_SET`
  case h_3 secs n hc => cases h; exact .setsDeadline _ _ hc
  -- `T_ELAPSED`
  case h_4 n hc => cases h; exact .ends _ (by simp [hc])
  -- `F_CMD_T`
  case h_5 secs n hc => cases h; exact .framerStarts _ _ (.inl ⟨secs, hc⟩)
  -- `F_HUNT_T`, `F_LEN_T`, `F_BODY_T`
  case h_6 c dl ph n hc =>
    rcases framerNow_cases dl ph n s with e | e | e <;> rw [e] at h
    · cases h; exact .framerReads ph hc
    · exact of_lapse hc (.inl rfl) h
    · exact of_lapse hc (.inr rfl) h
  -- `F_HUNT_R`, `F_LEN_R`, `F_BODY_R`
  case h_7 c dl ph r hc =>
    rcases framerRead_cases ph r s with ⟨k, e⟩ | hp
    · rw [e] at h
      exact of_readError hc h
    · generalize framerRead ph r s = y at h hp
      cases hp with
      | polls ph' ys => cases h; exact .framerPolls ph' ys hc
      | got n ys => exact of_got hc h
  -- `S_WRITE`
  case h_8 len m k hc =>
    unfold sendWrote at h
    split at h
    · cases h; exact .ends _ (by simp [hc])
    · cases h; exact .frameSent hc
  -- `S_DL`
  case h_9 len m n hc => cases h; exact .framerStarts _ _ (.inr (.inl ⟨len, m, hc⟩))
  -- `R_DL`
  case h_10 ms m e n hc => cases h; exact .framerStarts _ _ (.inr (.inr ⟨ms, m, e, hc⟩))
  -- `R_ACK`
  case h_11 ms m e p q d k hc => exact of_ackWrote hc h
  -- an answer of another primitive
  case h_12 => cases h

theorem of_whenConnected {w : Word} (hc : s.ctrl = .idle) {k : Out} (h : whenConnected s k = .next t)
    (hk : k = .next t → Move s (.command w) t) : Move s (.command w) t := by
  rcases whenConnected_next h with ⟨-, h⟩ | rfl
  · exact hk h
  · exact .endsAtOnce _ hc

theorem of_exec {i : Instr} (hc : s.ctrl = .idle) (h : exec i s = .next t) : Move s (.command (encode i)) t := by
  cases i with
  | connect =>
    change execConnect s = _ at h
    unfold execConnect at h
    split at h
    · cases h
    · cases h; exact .issued _ hc
  | disconnect => exact of_whenConnected hc h fun h => by cases h; exact .issued _ hc
  | send len m =>
    change execSend len m s = _ at h
    unfold execSend at h
    split at h
    · cases h; exact .endsAtOnce _ hc
    · rcases sendAttempt_next h with rfl | ⟨f, rfl⟩
      · exact .endsAtOnce _ hc
      · exact .sendStarts len m f hc
  | receive ms m =>
    refine of_whenConnected hc h fun h => ?_
    rcases receiveAttempt_next h with rfl | rfl
    · exact .endsAtOnce _ hc
    · exact .receiveStarts ms m _ hc
  | optimalBlockSize => cases h; exact .endsAtOnce _ hc
  | checksum seq tlen =>
    change execChecksum seq tlen s = _ at h
    unfold execChecksum at h
    split at h
    · cases h; exact .endsAtOnce _ hc
    · obtain ⟨p, -, h⟩ := withHostIn_next h
      cases h; exact .endsAtOnce _ hc
  | buildData len q =>
    change execBuildData len q s = _ at h
    unfold execBuildData at h
    split at h
    · cases h; exact .endsAtOnce _ hc
    · obtain ⟨p, -, h⟩ := withHostIn_next h
      obtain ⟨f, -, h⟩ := withBuilt_next h
      cases h; exact .buildsData len q f _ hc
  | buildAck q =>
    change execBuildAck q s = _ at h
    unfold execBuildAck at h
    obtain ⟨f, -, h⟩ := withBuilt_next h
    cases h; exact .buildsAck q f _ hc
  | verify n =>
    change execVerify n s = _ at h
    unfold execVerify at h
    split at h
    · cases h; exact .endsAtOnce _ hc
    · obtain ⟨f, -, h⟩ := withHostIn_next h
      split at h <;> cases h <;> exact .endsAtOnce _ hc
  | extract n max =>
    change execExtract n max s = _ at h
    unfold execExtract at h
    split at h
    · cases h; exact .endsAtOnce _ hc
    · obtain ⟨f, -, h⟩ := withHostIn_next h
      split at h
      · cases h; exact .endsAtOnce _ hc
      · obtain ⟨q, d, -, h⟩ := withExtracted_next h
        cases h; exact .extracts n max d _ hc rfl
  | readFrame secs => exact of_whenConnected hc h fun h => by cases h; exact .issued _ hc
  | setDeadline secs => cases h; exact .issued _ hc
  | elapsed => cases h; exact .issued _ hc

theorem of_issue {w : Word} (h : issue w s = .next t) : Move s (.command w) t := by
  unfold issue at h
  split at h
  next hc =>
    rcases hd : decode w with _ | i <;> rw [hd] at h
    · cases h; exact .endsAtOnce _ hc
    · rw [← (decode_eq_ok hd).1]
      exact of_exec hc h
  next => cases h

theorem of_hostWrite {i : Fin Config.hostBufCap} {b : Byte} (h : hostWrite i b s = .next t) :
    Move s (.hostWrite i b) t := by
  unfold hostWrite at h
  split at h
  next hc => cases h; exact .hostWrites hc
  next => cases h

end Move

/-- The state in which a step computes: the item is taken in, and the exchange, if there is one, recorded. -/
def State.taken (s : State) (xs : List Input) (ln : Nat) (tr : List Exchange) : State :=
  { s with inputs := xs, lastNow := ln, trace := tr }

/-- Everything a step that answers a next state can do. -/
theorem step_moves {s t : State} (h : step s = .next t) :
    t = s ∨ ∃ x xs ln tr, s.inputs = x :: xs ∧ Move (s.taken xs ln tr) x t := by
  rcases step_cases s with ⟨-, e⟩ | ⟨-, -, e⟩ | ⟨-, x, xs, hi, e⟩ <;> rw [e] at h
  · cases h
  · cases h; exact .inl rfl
  · refine .inr ⟨x, xs, ?_⟩
    cases x with
    | hostWrite i b => exact ⟨s.lastNow, s.trace, hi, .of_hostWrite h⟩
    | command w => exact ⟨s.lastNow, s.trace, hi, .of_issue h⟩
    | answer a =>
      rcases resume_cases a { s with inputs := xs } with ⟨c, -, -, e⟩ | ⟨f, -, e⟩ | ⟨e, -⟩
      · exact ⟨a.clock s.lastNow, ⟨c, a⟩ :: s.trace, hi, .of_afterAnswer (e ▸ h)⟩
      · cases e.symm.trans h
      · cases e.symm.trans h

section
variable {s t : State} {x : Input} {xs : List Input} {ln : Nat} {tr : List Exchange}

/-- A lost attempt of a caller's command happens while the framer runs for it, or at `R_ACK` on the path of R138. -/
theorem Lost.place {c : Caller} {rb : Memory} {rl : Nat} {k : Counters} (h : Lost s c rb rl k) :
    s.inFramerOf c ∨ ∃ ms m e f d, c = .receive ms m e ∧ s.ctrl = .rAck ms m e .outOfSequence f d := by
  cases h with
  | timeout hc _ => exact .inl (inFramerOf_now hc)
  | bad ys hc _ => exact .inl (inFramerOf_read hc)
  | negative ys hc => exact .inl (inFramerOf_read hc)
  | outOfSequence hc => exact .inr ⟨_, _, _, _, _, rfl, hc⟩

theorem Lost.place_send {len m : Nat} {rb : Memory} {rl : Nat} {k : Counters} (h : Lost s (.send len m) rb rl k) :
    s.inFramerOf (.send len m) := by
  rcases h.place with h | ⟨_, _, _, _, _, e, -⟩
  · exact h
  · cases e

theorem Lost.place_receive {ms m e : Nat} {rb : Memory} {rl : Nat} {k : Counters}
    (h : Lost s (.receive ms m e) rb rl k) :
    s.inFramerOf (.receive ms m e) ∨ ∃ f d, s.ctrl = .rAck ms m e .outOfSequence f d := by
  rcases h.place with h | ⟨_, _, _, f, d, e, hc⟩
  · exact .inl h
  · cases e; exact .inr ⟨f, d, hc⟩

theorem Lost.ctrl_ne_idle {c : Caller} {rb : Memory} {rl : Nat} {k : Counters} (h : Lost s c rb rl k) :
    s.ctrl ≠ .idle := by
  rcases h.place with ⟨_, _, hc | hc⟩ | ⟨_, _, _, _, _, -, hc⟩ <;> simp [hc]

/-- A lost attempt leaves `RX_BUF` and `RX_LEN` alone, or has read some bytes more. -/
theorem Lost.rx {c : Caller} {rb : Memory} {rl : Nat} {k : Counters} (h : Lost s c rb rl k) :
    (rb = s.rxBuf ∧ rl = s.rxLen) ∨ ((∃ c dl ph, s.ctrl = .framerR c dl ph) ∧ s.rxLen ≤ rl) := by
  cases h with
  | timeout => exact .inl ⟨rfl, rfl⟩
  | bad ys hc _ => exact .inr ⟨⟨_, _, _, hc⟩, Nat.le_add_right _ _⟩
  | negative ys hc => exact .inr ⟨⟨_, _, _, hc⟩, Nat.le_add_right _ _⟩
  | outOfSequence => exact .inl ⟨rfl, rfl⟩

namespace Move

/-! ### The table of R20, register by register -/

theorem session (h : Move (s.taken xs ln tr) x t) (hne : t.connected ≠ s.connected ∨ t.chanHandle ≠ s.chanHandle) :
    s.ctrl = .lOpen ∨ s.ctrl = .lClose := by
  cases h with
  | opens _ _ hc => exact .inl hc
  | closes _ hc => exact .inr hc
  | _ => exact hne.elim (absurd rfl) (absurd rfl)

theorem txSeq (h : Move (s.taken xs ln tr) x t) (hne : t.txSeq ≠ s.txSeq) :
    s.ctrl = .lOpen ∧ t.txSeq = 0 ∨
      (∃ len m dl ph, s.ctrl = .framerR (.send len m) dl ph) ∧ t.txSeq = s.txSeq + 1 ∧ t.ctrl = .idle ∧
        t.result = Result.plain .ok := by
  cases h with
  | opens _ _ hc => exact .inl ⟨hc, rfl⟩
  | acknowledged ys hc => exact .inr ⟨⟨_, _, _, _, hc⟩, nextTxSeq_eq _, rfl, rfl⟩
  | _ => exact absurd rfl hne

theorem rxLast (h : Move (s.taken xs ln tr) x t) (hne : t.rxLast ≠ s.rxLast) :
    s.ctrl = .lOpen ∧ t.rxLast = 0xFF ∨
      ∃ ms m e dl ph d, s.ctrl = .framerR (.receive ms m e) dl ph ∧ t.ctrl = .rAck ms m e .newBlock t.rxLast d ∧
        t.rxLast.toNat = e ∧ (s.Inv → e = expectedSeq s.rxLast) := by
  cases h with
  | opens _ _ hc => exact .inl ⟨hc, rfl⟩
  | @offersAck _ ms m e dl ph p q ys d f hc hp =>
    cases p with
    | newBlock =>
      refine .inr ⟨ms, m, e, dl, ph, d, hc, rfl, hp rfl, fun hi => ?_⟩
      obtain ⟨-, -, ⟨-, -, -, -, he⟩, -⟩ := (State.ctrlOk_framerR hc).1 hi.control
      exact he
    | duplicate => exact absurd rfl hne
    | outOfSequence => exact absurd rfl hne
  | _ => exact absurd rfl hne

theorem tx (hi : s.inputs = x :: xs) (h : Move (s.taken xs ln tr) x t)
    (hne : t.txBuf ≠ s.txBuf ∨ t.txLen ≠ s.txLen) :
    (∃ len q, s.takesIn (.buildData len q)) ∨ (∃ q, s.takesIn (.buildAck q)) ∨
      (∃ len m, t.ctrl = .sWrite len m ∧ (s.takesIn (.send len m) ∨ s.inFramerOf (.send len m))) ∨
      ∃ ms m e dl ph p f d, s.ctrl = .framerR (.receive ms m e) dl ph ∧ t.ctrl = .rAck ms m e p f d := by
  cases h with
  | buildsData len q _ _ hc => exact .inl ⟨len, q, hc, xs, hi⟩
  | buildsAck q _ _ hc => exact .inr (.inl ⟨q, hc, xs, hi⟩)
  | sendStarts len m _ hc => exact .inr (.inr (.inl ⟨len, m, rfl, .inl ⟨hc, xs, hi⟩⟩))
  | sendRetries _ hl => exact .inr (.inr (.inl ⟨_, _, rfl, .inr hl.place_send⟩))
  | offersAck ys d f hc => exact .inr (.inr (.inr ⟨_, _, _, _, _, _, _, d, hc, rfl⟩))
  | _ => exact hne.elim (absurd rfl) (absurd rfl)

theorem rxBuf (h : Move (s.taken xs ln tr) x t) (hne : t.rxBuf ≠ s.rxBuf) : ∃ c dl ph, s.ctrl = .framerR c dl ph := by
  have lost {c : Caller} {rb : Memory} {rl : Nat} {k : Counters} (hl : Lost (s.taken xs ln tr) c rb rl k)
      (hb : rb ≠ s.rxBuf) : ∃ c dl ph, s.ctrl = .framerR c dl ph := by
    rcases hl.rx with ⟨e, -⟩ | ⟨hc, -⟩
    · exact absurd e hb
    · exact hc
  cases h with
  | framerPolls _ _ hc => exact ⟨_, _, _, hc⟩
  | framerGot _ _ hc => exact ⟨_, _, _, hc⟩
  | acknowledged _ hc => exact ⟨_, _, _, hc⟩
  | offersAck _ _ _ hc => exact ⟨_, _, _, hc⟩
  | sendRetries _ hl => exact lost hl hne
  | receiveRetries hl => exact lost hl hne
  | givesUp _ hl => exact lost hl hne
  | _ => exact absurd rfl hne

theorem rxLen (h : Move (s.taken xs ln tr) x t) (hne : t.rxLen ≠ s.rxLen) :
    (∃ c dl ph, s.ctrl = .framerR c dl ph) ∧ s.rxLen < t.rxLen ∨
      t.rxLen = 0 ∧
        ((∃ secs, s.ctrl = .fCmdT secs) ∨ (∃ len m, s.ctrl = .sDl len m) ∨ ∃ ms m e, s.ctrl = .rDl ms m e) := by
  have reads (ys : List Byte) {c : Caller} {dl : Nat} {ph : Phase} (hc : s.ctrl = .framerR c dl ph)
      (hn : s.rxLen + ys.length ≠ s.rxLen) :
      (∃ c dl ph, s.ctrl = .framerR c dl ph) ∧ s.rxLen < s.rxLen + ys.length := ⟨⟨c, dl, ph, hc⟩, by omega⟩
  have lost {c : Caller} {rb : Memory} {rl : Nat} {k : Counters} (hl : Lost (s.taken xs ln tr) c rb rl k)
      (hn : rl ≠ s.rxLen) : (∃ c dl ph, s.ctrl = .framerR c dl ph) ∧ s.rxLen < rl := by
    rcases hl.rx with ⟨-, e⟩ | ⟨hc, hle⟩
    · exact absurd e hn
    · exact ⟨hc, lt_of_le_of_ne hle hn.symm⟩
  cases h with
  | framerStarts c n hc => exact .inr ⟨rfl, hc⟩
  | framerPolls _ ys hc => exact .inl (reads ys hc hne)
  | framerGot ys _ hc => exact .inl (reads ys hc hne)
  | acknowledged ys hc => exact .inl (reads ys hc hne)
  | offersAck ys _ _ hc => exact .inl (reads ys hc hne)
  | sendRetries _ hl => exact .inl (lost hl hne)
  | receiveRetries hl => exact .inl (lost hl hne)
  | givesUp _ hl => exact .inl (lost hl hne)
  | _ => exact absurd rfl hne

theorem hostIn (hi : s.inputs = x :: xs) (h : Move (s.taken xs ln tr) x t) (hne : t.hostIn ≠ s.hostIn) :
    s.ctrl = .idle ∧ ∃ i b rest, s.inputs = .hostWrite i b :: rest := by
  cases h with
  | hostWrites hc => exact ⟨hc, _, _, xs, hi⟩
  | _ => exact absurd rfl hne

theorem hostOut (hi : s.inputs = x :: xs) (h : Move (s.taken xs ln tr) x t)
    (hne : t.hostOut ≠ s.hostOut ∨ t.outLen ≠ s.outLen) :
    t.ctrl = .idle ∧ t.result.status = .ok ∧
      ((∃ ms m e p f d, s.ctrl = .rAck ms m e p f d ∧ p ≠ .outOfSequence) ∨ ∃ n max, s.takesIn (.extract n max)) := by
  cases h with
  | extracts n max _ _ hc hr => exact ⟨rfl, hr, .inr ⟨n, max, hc, xs, hi⟩⟩
  | delivers hc hp => exact ⟨rfl, rfl, .inl ⟨_, _, _, _, _, _, hc, hp⟩⟩
  | _ => exact hne.elim (absurd rfl) (absurd rfl)

theorem deadline (h : Move (s.taken xs ln tr) x t) (hne : t.deadline ≠ s.deadline) :
    (∃ secs, s.ctrl = .tSet secs ∨ s.ctrl = .fCmdT secs) ∨ (∃ l m, s.ctrl = .sDl l m) ∨
      ∃ ms m e, s.ctrl = .rDl ms m e := by
  cases h with
  | setsDeadline _ _ hc => exact .inl ⟨_, .inl hc⟩
  | framerStarts c n hc => exact hc.imp_left fun ⟨secs, h⟩ => ⟨secs, .inr h⟩
  | _ => exact absurd rfl hne

/-- A command is taken in only while the block is idle (R72). -/
theorem idle {w : Word} (h : Move s (.command w) t) : s.ctrl = .idle := by
  cases h <;> assumption

/-- An answer is taken in only while a command runs (R14). -/
theorem busy {a : Answer} (h : Move s (.answer a) t) : s.ctrl ≠ .idle := by
  cases h with
  | ends _ hc => exact hc
  | sendRetries _ hl => exact hl.ctrl_ne_idle
  | receiveRetries hl => exact hl.ctrl_ne_idle
  | givesUp _ hl => exact hl.ctrl_ne_idle
  | framerStarts _ _ hc => rcases hc with ⟨_, hc⟩ | ⟨_, _, hc⟩ | ⟨_, _, _, hc⟩ <;> simp [hc]
  | opens _ _ hc | closes _ hc | setsDeadline _ _ hc | framerReads _ hc | framerPolls _ _ hc | framerGot _ _ hc
  | frameSent hc | acknowledged _ hc | offersAck _ _ _ hc | delivers hc => simp [hc]

theorem ctrl (hi : s.inputs = x :: xs) (h : Move (s.taken xs ln tr) x t) (hne : t.ctrl ≠ s.ctrl) :
    s.ctrl = .idle ∧ (∃ w rest, s.inputs = .command w :: rest) ∨
      s.ctrl ≠ .idle ∧ ∃ a rest, s.inputs = .answer a :: rest := by
  cases x with
  | hostWrite i b => cases h; exact absurd rfl hne
  | command w => exact .inl ⟨h.idle, w, xs, hi⟩
  | answer a => exact .inr ⟨h.busy, a, xs, hi⟩

/-- A step ends a command, or it keeps `RESULT` and moves `ATTEMPT` only where an attempt starts. -/
theorem ends_or_keeps_result (hi : s.inputs = x :: xs) (h : Move (s.taken xs ln tr) x t) :
    commandEnds s t ∨ t.result = s.result ∧ (t.attempt ≠ s.attempt →
      (∃ len m, t.ctrl = .sWrite len m ∧
        (s.takesIn (.send len m) ∧ t.attempt = 1 ∨ s.inFramerOf (.send len m) ∧ t.attempt = s.attempt + 1)) ∨
      ∃ ms m e, t.ctrl = .rDl ms m e ∧
        (s.takesIn (.receive ms m) ∧ t.attempt = 1 ∨
          (s.inFramerOf (.receive ms m e) ∨ ∃ f d, s.ctrl = .rAck ms m e .outOfSequence f d) ∧
            t.attempt = s.attempt + 1)) := by
  have hb : ∀ a, x = .answer a → s.ctrl ≠ .idle := by
    rintro a rfl
    exact h.busy
  cases h with
  | endsAtOnce | buildsData | buildsAck | extracts => exact .inl (commandEnds_issued hi _ _)
  | opens | closes | setsDeadline | framerGot | ends | acknowledged | delivers | givesUp =>
    exact .inl (commandEnds_running (hb _ rfl) _ _)
  | sendStarts len m _ hc => exact .inr ⟨rfl, fun _ => .inl ⟨len, m, rfl, .inl ⟨⟨hc, xs, hi⟩, rfl⟩⟩⟩
  | receiveStarts ms m e hc => exact .inr ⟨rfl, fun _ => .inr ⟨ms, m, e, rfl, .inl ⟨⟨hc, xs, hi⟩, rfl⟩⟩⟩
  | sendRetries _ hl => exact .inr ⟨rfl, fun _ => .inl ⟨_, _, rfl, .inr ⟨hl.place_send, rfl⟩⟩⟩
  | receiveRetries hl => exact .inr ⟨rfl, fun _ => .inr ⟨_, _, _, rfl, .inr ⟨hl.place_receive, rfl⟩⟩⟩
  | _ => exact .inr ⟨rfl, absurd rfl⟩

/-- R9, R41: no step writes the parameters or the mark `REFUSED`. -/
theorem fixed (h : Move s x t) : t.params = s.params ∧ t.refused = s.refused := by
  cases h <;> exact ⟨rfl, rfl⟩

end Move

/-- R24 to R30: the counters after a step from `s`, by the event that is counted. -/
inductive CountersMove (s : State) : Counters → Prop
  | kept : CountersMove s s.counters
  | zeroed (hc : s.ctrl = .lOpen) : CountersMove s Counters.zero
  | frameSent {l m : Nat} (hc : s.ctrl = .sWrite l m) : CountersMove s s.counters.countFrameSent
  | goodRx {ms m e dl : Nat} {ph : Phase} (hc : s.ctrl = .framerR (.receive ms m e) dl ph) :
      CountersMove s s.counters.countGoodRx
  | badRx {c : Caller} {dl : Nat} {ph : Phase} (hc : s.ctrl = .framerR c dl ph) (hr : c ≠ .readFrame) :
      CountersMove s s.counters.countBadRx
  | ackSent {ms m e : Nat} {p : AckPath} {f : Byte} {d : List Byte} (hc : s.ctrl = .rAck ms m e p f d) :
      CountersMove s s.counters.countAckSent
  | ackRx {l m dl : Nat} {ph : Phase} (hc : s.ctrl = .framerR (.send l m) dl ph) : CountersMove s s.counters.countAckRx
  | timeout {c : Caller} {dl : Nat} {ph : Phase} (hc : s.ctrl = .framerT c dl ph) (hr : c ≠ .readFrame) :
      CountersMove s s.counters.countTimeout

theorem Lost.counters {c : Caller} {rb : Memory} {rl : Nat} {k : Counters} (h : Lost s c rb rl k) : CountersMove s k := by
  cases h with
  | timeout hc hr => exact .timeout hc hr
  | bad _ hc hr => exact .badRx hc hr
  | negative _ hc => exact .ackRx hc
  | outOfSequence hc => exact .ackSent hc

theorem Move.counters (h : Move s x t) : CountersMove s t.counters := by
  cases h with
  | opens _ _ hc => exact .zeroed hc
  | frameSent hc => exact .frameSent hc
  | offersAck _ _ _ hc => exact .goodRx hc
  | delivers hc => exact .ackSent hc
  | acknowledged _ hc => exact .ackRx hc
  | sendRetries _ hl => exact hl.counters
  | receiveRetries hl => exact hl.counters
  | givesUp _ hl => exact hl.counters
  | _ => exact .kept

end

/-! ### The obligations -/

/-- Settles O50: a step from a state that meets the invariant is safe. -/
theorem everyStepKeepsTheInvariant : Obligations.EveryStepKeepsTheInvariant := by
  intro s t h ht
  have hs := Safe.step h
  rwa [ht] at hs

/-- Settles O51: a step from a state that meets the invariant is safe, so it is no fault. -/
theorem noStepFaults : Obligations.NoStepFaults := by
  intro s f h hf
  have hs := Safe.step h
  rwa [hf] at hs

/-- Settles O53: every step that changes anything is one of the moves, and each register has its lemma over the moves. -/
theorem registersChangeOnlyWhereTheTableSays : Obligations.RegistersChangeOnlyWhereTheTableSays := by
  intro s t h
  rcases step_moves h with rfl | ⟨x, xs, ln, tr, hi, m⟩
  · simp
  · obtain ⟨hp, hr⟩ := m.fixed
    have he := m.ends_or_keeps_result hi
    exact ⟨hp, hr, m.session, m.txSeq, m.rxLast, m.tx hi, m.rxBuf, m.rxLen, m.hostIn hi, m.hostOut hi, m.deadline,
      m.ctrl hi, fun hne => he.imp_right fun ⟨_, ha⟩ => ha hne, fun hne => he.elim id fun ⟨hk, _⟩ => absurd hk hne⟩

/-- Settles O54: every move counts one event at most. -/
theorem countersMoveByOneAtTheirEvents : Obligations.CountersMoveByOneAtTheirEvents := by
  intro s t h
  rcases step_moves h with rfl | ⟨x, xs, ln, tr, hi, m⟩
  · exact .inl rfl
  · have hm := m.counters
    generalize t.counters = k at hm ⊢
    cases hm with
    | kept => exact .inl rfl
    | zeroed hc => exact .inr (.inl ⟨hc, rfl⟩)
    | frameSent hc => exact .inr (.inr (.inl ⟨⟨_, _, hc⟩, rfl⟩))
    | goodRx hc => exact .inr (.inr (.inr (.inl ⟨⟨_, _, _, _, _, hc⟩, rfl⟩)))
    | badRx hc hr => exact .inr (.inr (.inr (.inr (.inl ⟨⟨_, _, _, hc, hr⟩, rfl⟩))))
    | ackSent hc => exact .inr (.inr (.inr (.inr (.inr (.inl ⟨⟨_, _, _, _, _, _, hc⟩, rfl⟩)))))
    | ackRx hc => exact .inr (.inr (.inr (.inr (.inr (.inr (.inl ⟨⟨_, _, _, _, hc⟩, rfl⟩))))))
    | timeout hc hr => exact .inr (.inr (.inr (.inr (.inr (.inr (.inr ⟨⟨_, _, _, hc, hr⟩, rfl⟩))))))

/-- Settles O10: `step` looks at the mark first. -/
theorem refusedMarkStopsTheInstance : Obligations.RefusedMarkStopsTheInstance := by
  intro s hr
  simp [step, hr]

/-- Settles O12: the fields of `State.reset`, one by one. -/
theorem powerOnRegisters : Obligations.PowerOnRegisters :=
  ⟨rfl, rfl, by decide, rfl, rfl, fun _ => rfl, fun _ => rfl, fun _ => rfl, fun _ => rfl,
    rfl, rfl, rfl, rfl, rfl, rfl, rfl, rfl⟩

/-- Settles O49: the buffers are empty, there is no handle, `RX_LAST` is −1 and no command runs. -/
theorem powerOnMeetsTheInvariant : Obligations.PowerOnMeetsTheInvariant := by
  obtain ⟨tx, rx, hin, out⟩ := reset_buffers_wf
  exact {
    notRefused := rfl
    txWf := tx, rxWf := rx, inWf := hin, outWf := out
    txWithin := fun _ h => absurd h List.not_mem_nil
    rxWithin := fun _ h => absurd h List.not_mem_nil
    inWithin := fun _ h => absurd h List.not_mem_nil
    outWithin := fun _ h => absurd h List.not_mem_nil
    txHolds := ⟨Nat.zero_le _, rfl⟩
    rxHolds := ⟨Nat.zero_le _, rfl⟩
    outHolds := ⟨Nat.zero_le _, rfl⟩
    session := rfl
    rxLast := .inl (by decide)
    control := trivial }

/-- Settles O9: the step is the one write, and a buffer reads as `Memory.read_write` says. -/
theorem hostWriteSetsOneByte : Obligations.HostWriteSetsOneByte := by
  intro s i b rest hr hc hi
  refine ⟨s.hostIn.write i.val b, ?_, Memory.read_write _ _ _⟩
  rw [step_accepts hr hi]
  exact if_pos hc

end Sys2Proof.Machine

/-! The memory statements (spec/20_memory.md): how many bytes a running framer asks the channel for, and that a command
which would read an unwritten byte of `HOST_IN` is refused. -/

namespace Sys2Proof.Machine

/-! ### The size of a read -/

/-- R108: a framer that is due to read waits for `ChanRead` with the open handle. -/
theorem waiting_framerR {s : State} {c : Caller} {dl : Nat} {ph : Phase} {h : Handle} (hc : s.ctrl = .framerR c dl ph)
    (hh : s.chanHandle = some h) : s.waiting = .call (.chanRead h (readSize s.rxLen ph)) := by
  simp only [State.waiting, hc, withHandle_some hh]

/-- R51: there is room in the buffer, and in the body the frame is not complete. -/
theorem one_le_readSize {s : State} {ph : Phase} (hp : s.phaseOk ph) (hn : s.rxLen < 205) :
    1 ≤ readSize s.rxLen ph := by
  cases ph with
  | hunt => exact le_rfl
  | length => exact le_rfl
  | body g =>
    obtain ⟨-, -, -, hg⟩ := hp
    simp only [readSize, frameBufCap_eq]
    omega

theorem rxLen_add_readSize_body_le {n g : Nat} (hg : n ≤ g) (hn : n ≤ 205) :
    n + readSize n (.body g) ≤ g ∧ n + readSize n (.body g) ≤ 205 := by
  simp only [readSize, frameBufCap_eq]
  omega

/-! ### The obligations -/

/-- Settles O35: the invariant gives the handle, room in the buffer, and in the body a frame that is not complete. -/
theorem framerAsksForNoByteBeyondTheFrame : Obligations.FramerAsksForNoByteBeyondTheFrame := by
  intro s c dl ph hi hc
  obtain ⟨hcon, -, -, hp, hn⟩ := (State.ctrlOk_framerR hc).1 hi.control
  obtain ⟨h, hh⟩ := hi.toSound.handle hcon
  refine ⟨h, readSize s.rxLen ph, waiting_framerR hc hh, hh, one_le_readSize hp hn, ?_⟩
  cases ph with
  | hunt => rfl
  | length => rfl
  | body g =>
    obtain ⟨-, -, -, hg⟩ := hp
    exact rxLen_add_readSize_body_le hg.le hn.le

/-- Settles O25: past the check of its operands, each command's first act is the read of `HOST_IN`. -/
theorem unwrittenHostInputIsRefused : Obligations.UnwrittenHostInputIsRefused := by
  intro s x y
  refine ⟨fun h5 h205 hb => ?checksum, fun hx hb => ?buildData, fun hx hb => ?verify, fun hx hb => ?extract,
    fun hcon hx hy hb => ?send⟩
  case checksum => exact (if_neg (not_or.2 ⟨h5.not_gt, h205.not_gt⟩)).trans (withHostIn_unwritten hb _)
  case buildData => exact (if_neg hx.not_gt).trans (withHostIn_unwritten hb _)
  case verify => exact (if_neg hx.not_gt).trans (withHostIn_unwritten hb _)
  case extract => exact (if_neg hx.not_gt).trans (withHostIn_unwritten hb _)
  case send =>
    have hok : ¬ (s.connected = false ∨ Config.maxPayload < x) := not_or.2 ⟨by simp [hcon], hx.not_gt⟩
    exact (if_neg hok).trans ((if_pos hy).trans (withHostIn_unwritten hb _))

end Sys2Proof.Machine

/-! The encoding statements (spec/30_encoding.md): the word of a command and the command of a word (R73, R76, R77), what
issuing a word does (R72), and the text of a command (R79). -/

namespace Sys2Proof

/-! ### From a command to its word and back -/

/-- R73, R76: the fields of the word of every well-formed command. -/
theorem fields_encode : ∀ i : Instr, Laws.EncodeFields.Statement i
  | .connect          => Laws.EncodeFields.connect
  | .disconnect       => Laws.EncodeFields.disconnect
  | .send l a         => Laws.EncodeFields.send l a
  | .receive m a      => Laws.EncodeFields.receive m a
  | .optimalBlockSize => Laws.EncodeFields.optimalBlockSize
  | .checksum s t     => Laws.EncodeFields.checksum s t
  | .buildData l s    => Laws.EncodeFields.buildData l s
  | .buildAck s       => Laws.EncodeFields.buildAck s
  | .verify n         => Laws.EncodeFields.verify n
  | .extract n m      => Laws.EncodeFields.extract n m
  | .readFrame t      => Laws.EncodeFields.readFrame t
  | .setDeadline t    => Laws.EncodeFields.setDeadline t
  | .elapsed          => Laws.EncodeFields.elapsed

/-- R76: the row of a command's `OP` gives the command, on a word with the command's operands. -/
theorem decodeOp_opcode {w : Word} {i : Instr} (ha : aField w = i.operandA) (hb : bField w = i.operandB) :
    decodeOp w i.opcode = .ok i := by
  cases i with
  | connect | disconnect | optimalBlockSize | elapsed =>
    exact needZeroA_eq_ok.2 ⟨ha, needZeroB_eq_ok.2 ⟨hb, rfl⟩⟩
  | buildAck s => cases hb; exact needZeroA_eq_ok.2 ⟨ha, rfl⟩
  | verify n | readFrame t | setDeadline t => cases ha; exact needZeroB_eq_ok.2 ⟨hb, rfl⟩
  | send l a | receive m a | checksum s t | buildData l s | extract n m => cases ha; cases hb; rfl

/-- R73, R76: decoding undoes encoding on well-formed commands. -/
theorem decode_encode {i : Instr} (h : i.wellFormed = true) : decode (encode i) = .ok i := by
  obtain ⟨hop, ha, hb, hz⟩ := fields_encode i h
  rw [decode, if_pos hz, hop]
  exact decodeOp_opcode ha hb

/-- Settles O2: the word's fields are the command's `OP` and operands, and the row of that `OP` gives the command. -/
theorem encodedCommandsDecodeBack : Obligations.EncodedCommandsDecodeBack := fun _ => decode_encode

/-- Settles O3: the inversion of the decoder, `decode_eq_ok`. -/
theorem legalWordsEncodeBack : Obligations.LegalWordsEncodeBack := fun _ _ => decode_eq_ok

/-! ### The illegal words -/

theorem needZeroA_eq_error {w : Word} {r : Except DecodeError Instr} :
    (∃ e, needZeroA w r = .error e) ↔ aField w ≠ 0 ∨ ∃ e, r = .error e := by
  unfold needZeroA
  split <;> simp_all

theorem needZeroB_eq_error {w : Word} {r : Except DecodeError Instr} :
    (∃ e, needZeroB w r = .error e) ↔ bField w ≠ 0 ∨ ∃ e, r = .error e := by
  unfold needZeroB
  split <;> simp_all

/-- R76, R77: the opcode map rejects an unassigned `OP`, and an operand that its row marks must be 0 and is not. -/
theorem decodeOp_eq_error {w : Word} {op : Nat} : (∃ e, decodeOp w op = .error e) ↔
    (op = 0x00 ∨ (0x06 ≤ op ∧ op ≤ 0x0F) ∨ 0x18 ≤ op) ∨
    (aField w ≠ 0 ∧ op ∈ [0x01, 0x02, 0x05, 0x12, 0x17]) ∨
    (bField w ≠ 0 ∧ op ∈ [0x01, 0x02, 0x05, 0x13, 0x15, 0x16, 0x17]) := by
  unfold decodeOp
  split
  -- the map's last line: the `OP` is none of the thirteen above it
  case h_14 =>
    have unassigned : op = 0x00 ∨ (0x06 ≤ op ∧ op ≤ 0x0F) ∨ 0x18 ≤ op := by
      simp only [imp_false] at *
      omega
    exact iff_of_true ⟨_, rfl⟩ (.inl unassigned)
  all_goals simp [needZeroA_eq_error, needZeroB_eq_error]

/-- Settles O4: a word with `Z = 0` is illegal where its row of the opcode map rejects it. -/
theorem illegalWordsAreThoseOfTheRule : Obligations.IllegalWordsAreThoseOfTheRule := by
  intro w
  unfold decode
  split
  next hz => rw [decodeOp_eq_error]; simp [hz]
  next hz => exact iff_of_true ⟨_, rfl⟩ (.inr (.inl hz))

/-- Settles O1: the decoder evaluated on each word. -/
theorem specWordsDecodeToTheirCommands : Obligations.SpecWordsDecodeToTheirCommands :=
  ⟨rfl, rfl, rfl, rfl, rfl, rfl, rfl, rfl, rfl, rfl, rfl, rfl, rfl, rfl⟩

end Sys2Proof

namespace Sys2Proof.Machine

/-! ### Issuing a word -/

theorem issue_legal {s : State} {w : Word} {i : Instr} (hc : s.ctrl = .idle) (hd : decode w = .ok i) :
    issue w s = exec i s := by
  simp [issue, hc, hd]

theorem issue_illegal {s : State} {w : Word} {e : DecodeError} (hc : s.ctrl = .idle) (hd : decode w = .error e) :
    issue w s = .next (s.finish (Result.plain .illegalCommand)) := by
  simp [issue, hc, hd, illegalCommand, done_eq]

theorem issue_busy {s : State} (hc : s.ctrl ≠ .idle) (w : Word) : issue w s = .refused .commandWhileBusy := if_neg hc

theorem hostWrite_busy {s : State} (hc : s.ctrl ≠ .idle) (i : Fin Config.hostBufCap) (b : Byte) :
    hostWrite i b s = .refused .hostWriteWhileBusy := if_neg hc

/-- Settles O5: the step issues the word, and an idle block ends at once on an illegal one. -/
theorem illegalCommandOnlyWritesResult : Obligations.IllegalCommandOnlyWritesResult :=
  fun _ _ _ _ hr hc hi hd => (step_accepts hr hi).trans (issue_illegal hc hd)

/-- Settles O7: the step issues the word, and an idle block runs the command of a legal one. -/
theorem stepRunsTheDecodedCommand : Obligations.StepRunsTheDecodedCommand :=
  fun _ _ _ _ hr hc hi hd => (step_accepts hr hi).trans (issue_legal hc hd)

/-- Settles O8: issuing a word and writing `HOST_IN` both look at `CTRL` first. -/
theorem busyBlockRefusesTheHost : Obligations.BusyBlockRefusesTheHost :=
  fun s rest hr hc =>
  ⟨fun w hi => (step_accepts hr hi).trans (issue_busy (s := { s with inputs := rest }) hc w),
    fun i b hi => (step_accepts hr hi).trans (hostWrite_busy (s := { s with inputs := rest }) hc i b)⟩

/-! ### The text of a command -/

/-- A character that separates nothing in a line: no blank, no comma, no start of a comment. -/
def isWordChar (c : Char) : Bool := !(isBlank c || c = ',' || c = ';')

/-- A text that is one word. -/
def IsWord (cs : List Char) : Prop := cs ≠ [] ∧ ∀ c ∈ cs, isWordChar c = true

theorem isWordChar_iff {c : Char} : isWordChar c = true ↔ isBlank c = false ∧ c ≠ ',' ∧ c ≠ ';' := by
  simp [isWordChar, and_assoc]

/-- Words as the operands of a line: a comma and a blank between them. -/
def joinWords : List (List Char) → List Char
  | []      => []
  | w :: ws => w ++ ws.flatMap fun x => ',' :: ' ' :: x

theorem joinWords_cons_cons (w x : List Char) (ws : List (List Char)) :
    joinWords (w :: x :: ws) = w ++ ',' :: ' ' :: joinWords (x :: ws) := rfl

section
variable {w : List Char} {ws : List (List Char)}

theorem IsWord.head (h : IsWord w) : ∀ c ∈ w.head?, isBlank c = false :=
  fun c hc => (isWordChar_iff.1 (h.2 c (List.mem_of_mem_head? hc))).1

theorem IsWord.getLast (h : IsWord w) : ∀ c ∈ w.getLast?, isBlank c = false :=
  fun c hc => (isWordChar_iff.1 (h.2 c (List.mem_of_getLast? hc))).1

theorem IsWord.ne_comma (h : IsWord w) : ∀ c ∈ w, c ≠ ',' := fun c hc => (isWordChar_iff.1 (h.2 c hc)).2.1

theorem IsWord.ne_semicolon (h : IsWord w) : ∀ c ∈ w, c ≠ ';' := fun c hc => (isWordChar_iff.1 (h.2 c hc)).2.2

theorem joinWords_head (h : ∀ w ∈ ws, IsWord w) : ∀ c ∈ (joinWords ws).head?, isBlank c = false := by
  cases ws with
  | nil => simp [joinWords]
  | cons w ws =>
    have hw := h w (by simp)
    rw [joinWords, List.head?_append_of_ne_nil _ hw.1]
    exact hw.head

theorem joinWords_ne_nil (h : IsWord w) : joinWords (w :: ws) ≠ [] := by simp [joinWords, h.1]

theorem joinWords_getLast (h : ∀ w ∈ ws, IsWord w) : ∀ c ∈ (joinWords ws).getLast?, isBlank c = false := by
  induction ws with
  | nil => simp [joinWords]
  | cons w ws ih =>
    obtain ⟨hw, hws⟩ := List.forall_mem_cons.1 h
    cases ws with
    | nil => simpa [joinWords] using hw.getLast
    | cons x ws =>
      have hx := joinWords_ne_nil (ws := ws) (hws x (by simp))
      rw [joinWords_cons_cons, show ∀ t, w ++ ',' :: ' ' :: t = (w ++ [',', ' ']) ++ t by simp,
        List.getLast?_append_of_ne_nil _ hx]
      exact ih hws

theorem joinWords_ne_semicolon (h : ∀ w ∈ ws, IsWord w) : ∀ c ∈ joinWords ws, c ≠ ';' := by
  induction ws with
  | nil => simp [joinWords]
  | cons w ws ih =>
    obtain ⟨hw, hws⟩ := List.forall_mem_cons.1 h
    cases ws with
    | nil => simpa [joinWords] using hw.ne_semicolon
    | cons x ws =>
      rw [joinWords_cons_cons]
      simp only [List.forall_mem_append, List.forall_mem_cons]
      exact ⟨hw.ne_semicolon, by decide, by decide, ih hws⟩

/-- The parts between the commas: each word, the later ones after a blank. -/
theorem commaParts_joinWords (hw : IsWord w) (h : ∀ w ∈ ws, IsWord w) :
    commaParts (joinWords (w :: ws)) = w :: ws.map (' ' :: ·) := by
  induction ws generalizing w with
  | nil => simpa [joinWords] using commaParts_one hw.ne_comma
  | cons x ws ih =>
    obtain ⟨hx, hws⟩ := List.forall_mem_cons.1 h
    rw [joinWords_cons_cons, commaParts_comma hw.ne_comma, commaParts, if_neg (by decide), ih hx hws]
    rfl

/-- R79: the comma-separated parts of joined words are the words. -/
theorem lineParts_joinWords (h : ∀ w ∈ ws, IsWord w) : lineParts (joinWords ws) = ws := by
  cases ws with
  | nil => rfl
  | cons w ws =>
    obtain ⟨hw, hws⟩ := List.forall_mem_cons.1 h
    have ht : ws.map (trim ∘ (' ' :: ·)) = ws :=
      (List.map_congr_left fun x hx => trim_blank (hws x hx).head (hws x hx).getLast).trans (List.map_id _)
    rw [lineParts, if_neg (joinWords_ne_nil hw), commaParts_joinWords hw hws, List.map_cons, List.map_map, ht,
      trim_id hw.head hw.getLast]

/-- R79: the line of a first word, and a rest that ends in no blank and starts with one, or is empty. -/
theorem parseLine_word {rest : List Char} (hw : IsWord w) (hin : String.ofList w ≠ ".in")
    (hs : ∀ c ∈ rest, c ≠ ';') (hb : ∀ c ∈ rest.head?, isBlank c = true)
    (hl : ∀ c ∈ (w ++ rest).getLast?, isBlank c = false) :
    parseLine (w ++ rest) =
      (((lineParts (trim rest)).mapM parseOperand).bind (commandLine (String.ofList w))).map some := by
  have hc : withoutComment (w ++ rest) = w ++ rest :=
    withoutComment_id (List.forall_mem_append.2 ⟨hw.ne_semicolon, hs⟩)
  have ht : trim (w ++ rest) = w ++ rest :=
    trim_id (by rw [List.head?_append_of_ne_nil _ hw.1]; exact hw.head) hl
  have hr : rest.takeWhile (fun c => !isBlank c) = [] := by
    cases rest with
    | nil => rfl
    | cons c cs => simp [hb c rfl]
  have hf : (w ++ rest).takeWhile (fun c => !isBlank c) = w := by
    rw [List.takeWhile_append_of_pos fun c hc => by simp [(isWordChar_iff.1 (hw.2 c hc)).1], hr, List.append_nil]
  simp only [parseLine, hc, ht, hf, List.drop_left, if_neg hw.1, if_neg hin]

/-- R79: the line of a first word and joined words after it. -/
theorem parseLine_words (hw : IsWord w) (hin : String.ofList w ≠ ".in") (h : ∀ w ∈ ws, IsWord w) :
    parseLine (w ++ if ws = [] then [] else ' ' :: joinWords ws) =
      ((ws.mapM parseOperand).bind (commandLine (String.ofList w))).map some := by
  cases ws with
  | nil => exact parseLine_word hw hin (by simp) (by simp) (by simpa using hw.getLast)
  | cons x ws =>
    have hx := joinWords_ne_nil (ws := ws) (List.forall_mem_cons.1 h).1
    rw [if_neg (by simp), parseLine_word hw hin, trim_blank (joinWords_head h) (joinWords_getLast h),
      lineParts_joinWords h]
    · simpa using joinWords_ne_semicolon h
    · simp [isBlank]
    · rw [show ∀ t, w ++ ' ' :: t = (w ++ [' ']) ++ t by simp, List.getLast?_append_of_ne_nil _ hx]
      exact joinWords_getLast h

end

/-! The words of a command's text. -/

theorem isWordChar_of_isDigit {c : Char} (h : c.isDigit = true) : isWordChar c = true := by
  have ne (d : Char) (hd : d.isDigit = false) : c ≠ d := fun e => by rw [e, hd] at h; cases h
  simp [isWordChar, isBlank, ne ' ' rfl, ne '\t' rfl, ne ',' rfl, ne ';' rfl]

/-- R79: the names of operands. -/
def operandNames : List String := ["len", "attempts", "max", "seq", "tlen", "n", "secs"]

theorem operandNames_words : ∀ n ∈ operandNames, IsWord n.toList ∧ ∀ c ∈ n.toList, c ≠ '=' := by
  simp [operandNames, IsWord, isWordChar, isBlank]

/-- R73, R79: a well-formed command's operands have names of the list and are bytes. -/
theorem operands_named_bytes {i : Instr} (h : i.wellFormed = true) :
    ∀ o ∈ i.operands, o.1 ∈ operandNames ∧ o.2 < 256 := by
  cases i <;> simp_all [Instr.operands, operandNames, Instr.wellFormed, operandFits]

theorem mnemonic_word (i : Instr) : IsWord i.mnemonic.toList := by
  cases i <;> simp [Instr.mnemonic, IsWord, isWordChar, isBlank]

theorem mnemonic_ne_in (i : Instr) : i.mnemonic ≠ ".in" := by
  cases i <;> simp [Instr.mnemonic]

theorem operandText_word {o : String × Nat} (hn : IsWord o.1.toList) (hv : o.2 < 256) : IsWord (operandText o) := by
  obtain ⟨-, hd, -⟩ := parseByte_decimal ⟨o.2, hv⟩
  refine ⟨by simp [operandText], ?_⟩
  simp only [operandText, List.forall_mem_append, List.forall_mem_cons]
  exact ⟨hn.2, rfl, fun c hc => isWordChar_of_isDigit (List.all_eq_true.1 hd c hc)⟩

/-- R79: the texts of operands read as the operands. -/
theorem mapM_parseOperand_texts {os : List (String × Nat)}
    (h : ∀ o ∈ os, (∀ c ∈ o.1.toList, c ≠ '=') ∧ o.2 < 256) : (os.map operandText).mapM parseOperand = some os := by
  induction os with
  | nil => rfl
  | cons o os ih =>
    obtain ⟨⟨hn, hv⟩, hos⟩ := List.forall_mem_cons.1 h
    simp [List.mapM_cons, parseOperand_text hn hv, ih hos]

/-- R79: a command's text is its mnemonic and its operands' texts, joined. -/
theorem commandText_eq (i : Instr) : commandText i = i.mnemonic.toList ++
    if i.operands.map operandText = [] then [] else ' ' :: joinWords (i.operands.map operandText) := by
  unfold commandText
  cases i.operands with
  | nil => rfl
  | cons o os => simp [joinWords, List.flatMap_map]

/-- R79: a mnemonic with its operands is the line of the command. -/
theorem commandLine_operands (i : Instr) : commandLine i.mnemonic i.operands = some (.command i) := by
  cases i <;> rfl

/-- Settles O6: the words of the text are the mnemonic and the operands' texts, which read as the operands. -/
theorem commandTextsParseBack : Obligations.CommandTextsParseBack := by
  intro i hi
  have hos (o) (ho : o ∈ i.operands) := operands_named_bytes hi o ho
  have words : ∀ w ∈ i.operands.map operandText, IsWord w :=
    List.forall_mem_map.2 fun o ho => operandText_word (operandNames_words _ (hos o ho).1).1 (hos o ho).2
  have reads : (i.operands.map operandText).mapM parseOperand = some i.operands :=
    mapM_parseOperand_texts fun o ho => ⟨(operandNames_words _ (hos o ho).1).2, (hos o ho).2⟩
  rw [commandText_eq, parseLine_words (mnemonic_word i) (by simpa using mnemonic_ne_in i) words, reads]
  simp [commandLine_operands]

end Sys2Proof.Machine

/-! The codec statements (spec/40_codec.md). A list of bytes in the layout of a frame is Good exactly when the constant
bytes, the length and the checksum are right (R61, R89); the laws of the codec are read off that one lemma, and the
commands (R91 to R95) off the functions. -/

namespace Sys2Proof.Machine

/-! ### The checksum -/

/-- R84, R85: the value of a checksum fits its byte. -/
theorem toNat_checksum (q l : Byte) (p : List Byte) :
    (checksum q l p).toNat = (q.toNat + l.toNat + sumBytes p) % 251 := by
  simp only [checksum, BitVec.toNat_ofNat, Config.cksumMod]
  omega

/-- R84: checksums agree where the covered sums agree mod 251. -/
theorem checksum_eq_iff {q l q' l' : Byte} {p p' : List Byte} : checksum q l p = checksum q' l' p' ↔
    (q.toNat + l.toNat + sumBytes p) % 251 = (q'.toNat + l'.toNat + sumBytes p') % 251 := by
  rw [← BitVec.toNat_inj, toNat_checksum, toNat_checksum]

theorem sumBytes_set {p : List Byte} {j : Nat} (h : j < p.length) (x : Byte) :
    sumBytes (p.set j x) + p[j].toNat = sumBytes p + x.toNat := by
  induction p generalizing j with
  | nil => simp at h
  | cons b bs ih =>
    cases j with
    | zero =>
      simp only [sumBytes, List.set_cons_zero, List.getElem_cons_zero, List.map_cons, List.sum_cons]
      omega
    | succ j =>
      have tail := ih (Nat.lt_of_succ_lt_succ h)
      simp only [sumBytes, List.set_cons_succ, List.getElem_cons_succ, List.map_cons, List.sum_cons] at tail ⊢
      omega

/-! ### The frames that are Good -/

/-- R61, R89: the verdict on a list of bytes in the layout of a frame, whatever the bytes are. -/
theorem verifyFrame_layout_iff (a l q c e : Byte) (p : List Byte) :
    verifyFrame (a :: l :: q :: (p ++ [c, e])) = .good ↔
      l.toNat = p.length + 5 ∧ a = 212 ∧ e = 204 ∧ c = checksum q l p := by
  have hn : (a :: l :: q :: (p ++ [c, e])).length = p.length + 5 := by simp
  rw [verifyFrame_good_iff, hn, show p.length + 5 - 1 = p.length + 1 + 1 + 1 + 1 by omega,
    show p.length + 5 - 2 = p.length + 1 + 1 + 1 by omega]
  simp [byteAt, slice]

/-- R61: a list of at least five bytes has the layout of a frame. -/
theorem exists_layout {f : List Byte} (h : 5 ≤ f.length) :
    ∃ (a l q c e : Byte) (p : List Byte), f = a :: l :: q :: (p ++ [c, e]) := by
  obtain ⟨a, l, q, header⟩ := List.length_eq_three.1 (show (f.take 3).length = 3 by simp; omega)
  obtain ⟨c, e, trailer⟩ := List.length_eq_two.1
    (show ((f.drop 3).drop (f.length - 5)).length = 2 by simp; omega)
  refine ⟨a, l, q, c, e, (f.drop 3).take (f.length - 5), ?_⟩
  calc f = f.take 3 ++ ((f.drop 3).take (f.length - 5) ++ (f.drop 3).drop (f.length - 5)) := by simp
    _ = _ := by rw [header, trailer]; rfl

/-- R89, R61: the Good frames of at most 205 bytes are the built ones. -/
theorem verifyFrame_good_iff_frameOf {f : List Byte} (h : f.length ≤ 205) :
    verifyFrame f = .good ↔ ∃ p q, p.length ≤ 200 ∧ f = frameOf p q := by
  constructor
  · intro hv
    obtain ⟨a, l, q, c, e, p, rfl⟩ := exists_layout ((verifyFrame_good_iff f).1 hv).1
    obtain ⟨hl, rfl, rfl, rfl⟩ := (verifyFrame_layout_iff a l q c e p).1 hv
    have hl' : l = BitVec.ofNat 8 (p.length + 5) := by rw [← hl, BitVec.ofNat_toNat, BitVec.setWidth_eq]
    have hp : p.length ≤ 200 := by simp at h; omega
    exact ⟨p, q, hp, by rw [frameOf_eq, ← hl']⟩
  · rintro ⟨p, q, hp, rfl⟩
    exact verifyFrame_frameOf p q hp

/-! ### Corruption of a frame -/

/-- R97: flipping bit `k` adds `2 ^ k` or takes it away. -/
theorem xor_two_pow_eq (n k : Nat) : n ^^^ 2 ^ k = n + 2 ^ k ∨ (n ^^^ 2 ^ k) + 2 ^ k = n := by
  induction k generalizing n with
  | zero =>
    have hmod : (n ^^^ 1) % 2 = (n + 1) % 2 := Nat.xor_mod_two_eq
    have hdiv : (n ^^^ 1) / 2 = n / 2 := by rw [Nat.xor_div_two, Nat.xor_zero]
    rw [Nat.pow_zero]
    omega
  | succ k ih =>
    have hmod : (n ^^^ 2 ^ k * 2) % 2 = (n + 2 ^ k * 2) % 2 := Nat.xor_mod_two_eq
    have hdiv : (n ^^^ 2 ^ k * 2) / 2 = n / 2 ^^^ 2 ^ k := by
      rw [Nat.xor_div_two, Nat.mul_div_cancel _ (by decide)]
    have half := ih (n / 2)
    rw [Nat.pow_succ]
    omega

/-- R97: a bit of a byte is worth at most 128, so flipping it is never a change by a multiple of 251. -/
theorem flipped_mod_ne (b : Byte) {k : Nat} (hk : k < 8) :
    (b ^^^ BitVec.ofNat 8 (2 ^ k)).toNat % 251 ≠ b.toNat % 251 := by
  have hpos : 0 < 2 ^ k := Nat.two_pow_pos k
  have hle : 2 ^ k ≤ 2 ^ 7 := Nat.pow_le_pow_right (by decide) (by omega)
  have flip := xor_two_pow_eq b.toNat k
  rw [BitVec.toNat_xor, BitVec.toNat_ofNat, Nat.mod_eq_of_lt (show 2 ^ k < 2 ^ 8 by omega)]
  omega

theorem byteAt_frameOf_payload {p : List Byte} {j : Nat} (hj : j < p.length) (q : Byte) :
    byteAt (frameOf p q) (j + 3) = p[j] := by
  simp [frameOf_eq, byteAt, List.getElem?_append_left hj, hj]

/-- R86, R97: a change of one covered byte escapes only where it is a multiple of 251. -/
theorem verifyFrame_set_bad {p : List Byte} {q x : Byte} {i : Nat} (hp : p.length ≤ 200) (h1 : 1 ≤ i)
    (hi : i < p.length + 3) (hx : x.toNat % 251 ≠ (byteAt (frameOf p q) i).toNat % 251) :
    verifyFrame ((frameOf p q).set i x) = .bad := by
  rw [verifyFrame_bad_iff, frameOf_eq]
  intro hv
  match i with
  | 1 => -- the length byte
    obtain ⟨hl, -⟩ := (verifyFrame_layout_iff ..).1 hv
    rw [byteAt_frameOf_one, BitVec.toNat_ofNat, hl] at hx
    omega
  | 2 => -- the sequence byte
    obtain ⟨-, -, -, hc⟩ := (verifyFrame_layout_iff ..).1 hv
    have hsum := checksum_eq_iff.1 hc
    rw [byteAt_frameOf_two] at hx
    omega
  | j + 3 => -- a payload byte
    have hj : j < p.length := by omega
    rw [List.set_cons_succ, List.set_cons_succ, List.set_cons_succ, List.set_append_left _ _ hj] at hv
    obtain ⟨-, -, -, hc⟩ := (verifyFrame_layout_iff ..).1 hv
    have hsum := checksum_eq_iff.1 hc
    have hset := sumBytes_set hj x
    rw [byteAt_frameOf_payload hj] at hx
    omega

/-! ### The laws of the codec -/

/-- Settles O26: the build, the verdict and the extraction on a built frame. -/
theorem codecRoundTrip : Obligations.CodecRoundTrip := fun p q hp =>
  ⟨frameOf p q, buildDataFrame_ok q hp, length_frameOf p q, verifyFrame_frameOf p q hp, fun m hm => by
    rw [extractPayload_frameOf p q m hp, List.take_of_length_le hm]⟩

/-- Settles O27: a Good list has the layout of a frame, and its header and trailer are those of the built one. -/
theorem goodFramesAreTheBuiltOnes : Obligations.GoodFramesAreTheBuiltOnes := fun _ => verifyFrame_good_iff_frameOf

/-- Settles O28: a flipped bit changes its byte by no multiple of 251. -/
theorem singleBitFlipsAreDetected : Obligations.SingleBitFlipsAreDetected := fun _ _ _ _ hp h1 hi hk =>
  verifyFrame_set_bad hp h1 hi (flipped_mod_ne _ hk)

/-- Settles O29: the old header and trailer are right for the new payload, whose covered sum is the same mod 251. -/
theorem sumPreservingCorruptionEscapes : Obligations.SumPreservingCorruptionEscapes := by
  intro p p' q hp hlen hsum
  have hc : checksum q (BitVec.ofNat 8 (p.length + 5)) p = checksum q (BitVec.ofNat 8 (p.length + 5)) p' := by
    rw [checksum_eq_iff, sumBytes, sumBytes]
    omega
  have hf : (frameOf p q).take 3 ++ p' ++ (frameOf p q).drop (p.length + 3) =
      212 :: BitVec.ofNat 8 (p.length + 5) :: q :: (p' ++ [checksum q (BitVec.ofNat 8 (p.length + 5)) p, 204]) := by
    simp [frameOf_eq]
  rw [hf]
  exact verifyFrame_of_shape _ _ _ _ (by simp; omega) hc

/-! ### The commands -/

/-- R84: the checksum of byte operands, as a sum of numbers. -/
theorem toNat_checksum_operands {q l : Nat} (hq : q < 256) (hl : l < 256) (p : List Byte) :
    (checksum (byteOperand q) (byteOperand l) p).toNat = (q + l + (p.map BitVec.toNat).sum) % 251 := by
  rw [toNat_checksum, byteOperand, byteOperand, BitVec.toNat_ofNat, BitVec.toNat_ofNat, Nat.mod_eq_of_lt hq,
    Nat.mod_eq_of_lt hl, sumBytes]

/-- R61: the frame of a payload with a sequence operand, with its checksum as a sum of numbers. -/
theorem frameOf_byteOperand {p : List Byte} {q : Nat} (hq : q < 256) (hp : p.length ≤ 200) :
    frameOf p (byteOperand q) = [212, BitVec.ofNat 8 (p.length + 5), BitVec.ofNat 8 q] ++ p ++
      [BitVec.ofNat 8 ((q + (p.length + 5) + (p.map BitVec.toNat).sum) % 251), 204] := by
  rw [← toNat_checksum_operands hq (by omega) p, BitVec.ofNat_toNat, BitVec.setWidth_eq]
  rfl

/-- Settles O20: the sum is over numbers and reduced once, and its value fits the byte it is returned in. -/
theorem checksumAnswersTheSumModulo251 : Obligations.ChecksumAnswersTheSumModulo251 := by
  intro s seq tlen
  refine ⟨fun h => if_pos h, fun p hs h5 h205 hb => ?_⟩
  calc exec (.checksum seq tlen) s
      = done (Result.withValue .ok (checksum (byteOperand seq) (byteOperand tlen) p).toNat) s :=
        (if_neg (not_or.2 ⟨h5.not_gt, h205.not_gt⟩)).trans (withHostIn_written hb _)
    _ = _ := by rw [toNat_checksum_operands hs (by omega)]; rfl

/-- R92: `BUILD_DATA` of written bytes places their frame. -/
theorem exec_buildData {s : State} {p : List Byte} (seq : Nat) (hp : p.length ≤ 200)
    (hb : bufRead s.hostIn 0 p.length = some p) : exec (.buildData p.length seq) s =
      done (Result.withValue .ok (p.length + 5)) (s.putTx (frameOf p (byteOperand seq))) := by
  refine (if_neg hp.not_gt).trans ((withHostIn_written hb _).trans ?_)
  rw [withBuilt_ok (buildDataFrame_ok _ hp), State.putTx_txLen, length_frameOf]

/-- R93: `BUILD_ACK` places the frame of no payload. -/
theorem exec_buildAck (s : State) (seq : Nat) :
    exec (.buildAck seq) s = done (Result.withValue .ok 5) (s.putTx (frameOf [] (byteOperand seq))) :=
  withBuilt_ok (buildAckFrame_ok _) s fun s' => done (Result.withValue .ok 5) s'

/-- What placing the frame of a payload with a sequence operand leaves in `TX_BUF` (R61). -/
theorem putTx_frameOf_reads (s : State) {p : List Byte} {q : Nat} (hq : q < 256) (hp : p.length ≤ 200) :
    bufRead (s.putTx (frameOf p (byteOperand q))).txBuf 0 (p.length + 5) =
      some ([212, BitVec.ofNat 8 (p.length + 5), BitVec.ofNat 8 q] ++ p ++
        [BitVec.ofNat 8 ((q + (p.length + 5) + (p.map BitVec.toNat).sum) % 251), 204]) ∧
    ∀ j, p.length + 5 ≤ j → (s.putTx (frameOf p (byteOperand q))).txBuf.read j = s.txBuf.read j := by
  have reads := putTx_reads s (frameOf p (byteOperand q))
  rw [State.putTx_txLen, length_frameOf] at reads
  rwa [← frameOf_byteOperand hq hp]

/-- Settles O21: the built frame is placed in `TX_BUF`, where it reads back, and its length is answered. -/
theorem buildDataPlacesTheFrame : Obligations.BuildDataPlacesTheFrame := by
  intro s len seq
  refine ⟨fun h => if_pos h, fun p hs h200 hb => ?_⟩
  obtain rfl := bufRead_length hb
  refine ⟨_, ?_, putTx_frameOf_reads s hs h200⟩
  rw [exec_buildData seq h200 hb, State.putTx, length_frameOf]
  rfl

/-- Settles O22: the acknowledgment is the frame of no payload, placed in `TX_BUF`, where it reads back. -/
theorem buildAckPlacesTheFrame : Obligations.BuildAckPlacesTheFrame := fun s seq hs =>
  ⟨_, exec_buildAck s seq, putTx_frameOf_reads s (p := []) hs (Nat.zero_le _)⟩

/-- R94: `VERIFY` of written bytes ends with the verdict. -/
theorem exec_verify {s : State} {n : Nat} {f : List Byte} (hn : n ≤ 205) (hb : bufRead s.hostIn 0 n = some f) :
    exec (.verify n) s =
      .next (s.finish (Result.plain (if verifyFrame f = .good then .good else .bad))) := by
  refine (if_neg hn.not_gt).trans ((withHostIn_written hb _).trans ?_)
  cases verifyFrame f <;> rfl

/-- Settles O23: the verdict is Good exactly on the built frames. -/
theorem verifyAnswersTheVerdict : Obligations.VerifyAnswersTheVerdict := by
  intro s n
  refine ⟨fun h => if_pos h, fun f hn hb => ?_⟩
  have good_iff := verifyFrame_good_iff_frameOf (f := f) ((bufRead_length hb).trans_le hn)
  rw [exec_verify hn hb, ← good_iff]
  exact ⟨fun h => by rw [if_pos h], fun h => by rw [if_neg h]⟩

/-- R95: `EXTRACT` of written bytes that are not a Good frame. -/
theorem exec_extract_bad {s : State} {n : Nat} {f : List Byte} (max : Nat) (hn : n ≤ 205)
    (hb : bufRead s.hostIn 0 n = some f) (hv : verifyFrame f = .bad) :
    exec (.extract n max) s = .next (s.finish (Result.plain .bad)) := by
  refine (if_neg hn.not_gt).trans ((withHostIn_written hb _).trans ?_)
  rw [hv]
  rfl

/-- R95: `EXTRACT` of a Good frame returns what `extract_payload` extracts. -/
theorem exec_extract_good {s : State} {n max : Nat} {f d : List Byte} {q : Byte} (hn : n ≤ 205)
    (hb : bufRead s.hostIn 0 n = some f) (hv : verifyFrame f = .good) (he : extractPayload f max = .ok (q, d)) :
    exec (.extract n max) s =
      .next ((s.putOut d).finish { Result.withValue .ok d.length with seq := q }) := by
  refine (if_neg hn.not_gt).trans ((withHostIn_written hb _).trans ?_)
  rw [hv]
  exact withExtracted_ok he _

/-- Settles O24: a built frame is Good and gives its truncated payload, which reads back from `HOST_OUT`. -/
theorem extractReturnsTheTruncatedPayload : Obligations.ExtractReturnsTheTruncatedPayload := by
  intro s n max
  refine ⟨fun h => if_pos h, fun f hn hb hv => exec_extract_bad max hn hb hv, fun p q hp hn hb => ?_⟩
  have hlen : (p.take max).length = min p.length max := by rw [List.length_take, Nat.min_comm]
  obtain ⟨reads, beyond⟩ := putOut_reads s (p.take max)
  rw [State.putOut_outLen, hlen] at reads
  rw [hlen] at beyond
  refine ⟨(s.putOut (p.take max)).hostOut, ?_, reads, beyond⟩
  rw [exec_extract_good (by omega) hb (verifyFrame_frameOf p q hp) (extractPayload_frameOf p q max hp),
    ← hlen]
  rfl

end Sys2Proof.Machine

/-! The framer statements (spec/41_framer.md): one step at each kind of control point of the framer, and the run in which
the channel delivers a candidate frame: noise and the start marker, then the length byte, then the body. -/

namespace Sys2Proof.Machine

/-! ### One answer -/

section
variable {s : State} {t : Nat} {rest : List Input}

/-- R14, R108: a clock answer that does not run backwards, where the block waits for the clock. -/
theorem step_now (hr : s.refused = false) (hw : s.waiting = .call .now) (hi : s.inputs = .answer (.now t) :: rest)
    (ht : s.lastNow ≤ t) :
    step s = afterAnswer (.now t) { s with inputs := rest, lastNow := t, trace := ⟨.now, .now t⟩ :: s.trace } :=
  step_answers hr hi hw (admits_now.2 ⟨t, rfl, ht⟩)

/-- R103: the clock answers a running framer. -/
theorem step_framerT {c : Caller} {dl : Nat} {ph : Phase} (hr : s.refused = false) (hc : s.ctrl = .framerT c dl ph)
    (hi : s.inputs = .answer (.now t) :: rest) (ht : s.lastNow ≤ t) :
    step s = framerGoesOn c dl (framerNow dl ph t
      { s with inputs := rest, lastNow := t, trace := ⟨.now, .now t⟩ :: s.trace }) :=
  (step_now hr (by simp [State.waiting, hc]) hi ht).trans (afterAnswer_framerT (by exact hc) t)

/-- R103: the channel answers a running framer, within the contract. -/
theorem step_framerR {c : Caller} {dl : Nat} {ph : Phase} {h : Handle} {r : ReadAnswer} (hr : s.refused = false)
    (hc : s.ctrl = .framerR c dl ph) (hh : s.chanHandle = some h) (hi : s.inputs = .answer (.chanRead r) :: rest)
    (ha : (Call.chanRead h (readSize s.rxLen ph)).admits s.lastNow (.chanRead r) = true) :
    step s = framerGoesOn c dl (framerRead ph r
      { s with inputs := rest, trace := ⟨.chanRead h (readSize s.rxLen ph), .chanRead r⟩ :: s.trace }) :=
  (step_answers hr hi (waiting_framerR (by exact hc) (by exact hh)) ha).trans (afterAnswer_framerR (by exact hc) r)

/-- `READ_FRAME` once the clock has answered `t`: `DEADLINE` is set and the framer hunts on an empty `RX_BUF`. -/
def State.hunting (s : State) (secs t : Nat) (rest : List Input) : State :=
  { s with
    deadline := t + secs * s.params.ticksPerSecond, rxLen := 0, lastNow := t, inputs := rest,
    ctrl := .framerT .readFrame (t + secs * s.params.ticksPerSecond) .hunt, trace := ⟨.now, .now t⟩ :: s.trace }

/-- R107: the clock's answer that sets the deadline of `READ_FRAME`. -/
theorem step_fCmdT {secs : Nat} (hr : s.refused = false) (hc : s.ctrl = .fCmdT secs)
    (hi : s.inputs = .answer (.now t) :: rest) (ht : s.lastNow ≤ t) : step s = .next (s.hunting secs t rest) :=
  (step_now hr (by simp [State.waiting, hc]) hi ht).trans (afterAnswer_fCmdT (by exact hc) t)

end

/-! ### Polls in time -/

/-- The polls take place before the deadline `dl`, on a clock that does not run backwards from `start`. -/
def PollsInTime (start dl : Nat) (ps : List Poll) : Prop :=
  (start :: ps.map Poll.time).Pairwise (· ≤ ·) ∧ ∀ p ∈ ps, p.time < dl

theorem pollsInTime_cons {start dl : Nat} {p : Poll} {ps : List Poll} :
    PollsInTime start dl (p :: ps) ↔ start ≤ p.time ∧ p.time < dl ∧ PollsInTime p.time dl ps := by
  simp only [PollsInTime, List.map_cons, List.pairwise_cons, List.forall_mem_cons]
  constructor
  · rintro ⟨⟨⟨h, -⟩, hp⟩, hd, hds⟩
    exact ⟨h, hd, hp, hds⟩
  · rintro ⟨h, hd, ⟨hp, hps⟩, hds⟩
    exact ⟨⟨⟨h, fun t ht => h.trans (hp t ht)⟩, hp, hps⟩, hd, hds⟩

/-- Later polls go on from the last answer of the earlier ones. -/
theorem PollsInTime.append {start dl : Nat} {ps qs : List Poll} (h : PollsInTime start dl (ps ++ qs)) :
    PollsInTime start dl ps ∧ PollsInTime ((ps.map Poll.time).getLastD start) dl qs := by
  induction ps generalizing start with
  | nil => exact ⟨⟨List.pairwise_singleton _ _, by simp⟩, h⟩
  | cons p ps ih =>
    obtain ⟨h1, h2, h3⟩ := pollsInTime_cons.1 h
    obtain ⟨hps, hqs⟩ := ih h3
    exact ⟨pollsInTime_cons.2 ⟨h1, h2, hps⟩, by cases ps <;> exact hqs⟩

theorem pollInputs_append (ps qs : List Poll) : pollInputs (ps ++ qs) = pollInputs ps ++ pollInputs qs :=
  List.flatMap_append

/-- A run of pieces whose last one is not empty brings some byte. -/
theorem flatMap_bytes_ne_nil {ps : List Poll} (hne : ps ≠ []) (hlast : ∀ p ∈ ps.getLast?, p.bytes ≠ []) :
    ps.flatMap Poll.bytes ≠ [] := fun h =>
  hlast _ (List.getLast?_eq_some_getLast hne) (List.flatMap_eq_nil_iff.1 h _ (List.getLast_mem hne))

/-! ### A delivery, loop by loop -/

section
variable {s : State} {c : Caller} {dl : Nat} {h : Handle} {rest : List Input}

/-- R100: the hunt discards noise, and the start marker ends it. -/
theorem hunt_finds_mark {noise : List Poll} {m : Nat} (hr : s.refused = false) (hc : s.ctrl = .framerT c dl .hunt)
    (hh : s.chanHandle = some h) (hn : ∀ p ∈ noise, p.bytes.length ≤ 1 ∧ p.bytes ≠ [Config.startMarker])
    (ht : PollsInTime s.lastNow dl (noise ++ [⟨m, [Config.startMarker]⟩]))
    (hi : s.inputs = pollInputs (noise ++ [⟨m, [Config.startMarker]⟩]) ++ rest) (k : Nat) :
    ∃ tr, stepN (2 * (noise.length + 1) + k) s =
        stepN k (s.polled (bufWrite s.rxBuf s.rxLen [Config.startMarker]) (s.rxLen + 1) (.framerT c dl .length) m rest tr) ∧
      ∀ e ∈ tr, e.isPoll h := by
  obtain ⟨⟨hm, hd⟩, hmark⟩ := ht.append
  obtain ⟨hge, hlt, -⟩ := pollsInTime_cons.1 hmark
  rw [pollInputs_append, List.append_assoc] at hi
  obtain ⟨_, tr, hrun, rfl, htr⟩ := hunt_noise noise _ (2 + k) s hr hc hh hn hm hd hi
  refine ⟨pollTrace h 1 m [Config.startMarker] ++ tr, ?_, List.forall_mem_append.2 ⟨pollTrace_isPoll _ _ _ _, htr⟩⟩
  rw [show 2 * (noise.length + 1) + k = 2 * noise.length + (2 + k) by omega, hrun,
    poll_mark (by exact hr) rfl (by exact hh) rfl hge hlt, State.polled_polled]
  rfl

/-- R101, R102, R104: after the start marker, the length byte and the pieces of the body make the framer return. -/
theorem frame_completes {ts : List Nat} {t : Nat} {l : Byte} {ps : List Poll} (hr : s.refused = false)
    (hc : s.ctrl = .framerT c dl .length) (hh : s.chanHandle = some h) (hn : s.rxLen = 1) (hl : l.toNat ≤ 205)
    (hb : (ps.flatMap Poll.bytes).length + 2 = targetOf l) (hlast : ∀ p ∈ ps.getLast?, p.bytes ≠ [])
    (ht : PollsInTime s.lastNow dl (ts.map (⟨·, []⟩) ++ ⟨t, [l]⟩ :: ps))
    (hi : s.inputs = pollInputs (ts.map (⟨·, []⟩) ++ ⟨t, [l]⟩ :: ps) ++ rest) :
    ∃ ct ln tr, stepN (2 * (ts.length + 1 + ps.length)) s = framerReturn c (.got (targetOf l))
        (s.polled (bufWrite s.rxBuf 1 (l :: ps.flatMap Poll.bytes)) (targetOf l) ct ln rest tr) ∧
      ∀ e ∈ tr, e.isPoll h := by
  have times : (ts.map (Poll.mk · [])).map Poll.time = ts := by simp [Function.comp_def]
  obtain ⟨⟨hm, hd⟩, hlength⟩ := ht.append
  rw [times] at hm hlength
  obtain ⟨hge, hlt, hbody⟩ := pollsInTime_cons.1 hlength
  rw [pollInputs_append, List.append_assoc] at hi
  obtain ⟨_, tr, hrun, rfl, htr⟩ := length_waits ts _ (2 + 2 * ps.length) s hr hc hh hm (by simpa using hd) hi
  rw [show 2 * (ts.length + 1 + ps.length) = 2 * ts.length + (2 + 2 * ps.length) by omega, hrun,
    poll_length (rest := pollInputs ps ++ rest) (by exact hr) rfl (by exact hh) rfl hge hlt, State.polled_polled,
    State.polled_rxBuf, State.polled_rxLen, hn]
  have htr' : ∀ e ∈ pollTrace h 1 t [l] ++ tr, e.isPoll h :=
    List.forall_mem_append.2 ⟨pollTrace_isPoll _ _ _ _, htr⟩
  by_cases hps : ps = []
  · -- the length byte completes the frame
    subst hps
    have h2 : 2 = targetOf l := by simpa using hb
    rw [bodyLoop_complete (by exact h2)]
    refine ⟨.framerR c dl .length, t, pollTrace h 1 t [l] ++ tr, ?_, htr'⟩
    rw [← h2, List.flatMap_nil, show pollInputs [] ++ rest = rest from rfl]
    simp only [framerGoesOn]
    cases framerReturn _ _ _ <;> rfl
  · -- the body loop is entered, and the pieces complete the frame
    have hopen : 1 + 1 ≠ targetOf l := by
      have := List.length_pos_iff.2 (flatMap_bytes_ne_nil hps hlast)
      omega
    rw [bodyLoop_open (by exact hopen)]
    obtain ⟨ct, ln, tr', hrun', htr''⟩ := body_pieces (g := targetOf l) ps rest
      (s.polled (bufWrite s.rxBuf 1 [l]) (1 + 1) (.framerT c dl (.body (targetOf l))) t
        (pollInputs ps ++ rest) (pollTrace h 1 t [l] ++ tr))
      hr rfl hh hps hlast (by simp only [targetOf]; omega) (by simp only [State.polled_rxLen]; omega) hbody.1 hbody.2 rfl
    refine ⟨ct, ln, tr' ++ (pollTrace h 1 t [l] ++ tr), ?_, List.forall_mem_append.2 ⟨htr'', htr'⟩⟩
    rw [State.polled_polled] at hrun'
    exact hrun'

end

/-! ### The obligations -/

/-- Settles O30: the hunt ends at the start marker, and the rest of the delivery completes the frame behind it. -/
theorem framerReturnsTheDeliveredFrame : Obligations.FramerReturnsTheDeliveredFrame := by
  intro s c dl h d l body rest hr hc hn hh hl hlen hd hi
  obtain ⟨hnoise, rfl, hlast, hm, hdl⟩ := hd
  have split : d.polls l = (d.noise ++ [⟨d.markAt, [Config.startMarker]⟩]) ++
      (d.lenWait.map (⟨·, []⟩) ++ ⟨d.lenAt, [l]⟩ :: d.pieces) := by simp [Delivery.polls]
  have ht : PollsInTime s.lastNow dl (d.polls l) := ⟨hm, hdl⟩
  rw [split] at ht hi
  rw [pollInputs_append, List.append_assoc] at hi
  obtain ⟨hmark, hframe⟩ := ht.append
  simp only [List.map_append, List.map_cons, List.map_nil, List.getLastD_concat] at hframe
  obtain ⟨tr, hrun, htr⟩ := hunt_finds_mark hr hc hh hnoise hmark hi
    (2 * (d.lenWait.length + 1 + d.pieces.length))
  obtain ⟨ct, ln, tr', hrun', htr'⟩ := frame_completes (s := s.polled _ _ _ d.markAt _ tr)
    hr rfl hh (congrArg (· + 1) hn) hl hlen hlast hframe rfl
  have steps : d.steps = 2 * (d.noise.length + 1) + 2 * (d.lenWait.length + 1 + d.pieces.length) := by
    simp only [Delivery.steps]; omega
  have size : (212 :: l :: d.pieces.flatMap Poll.bytes).length = max l.toNat 2 := hlen
  refine ⟨bufWrite s.rxBuf 0 (212 :: l :: d.pieces.flatMap Poll.bytes), ln, tr' ++ tr, ct, ?_, ?_, ?_,
    List.forall_mem_append.2 ⟨htr', htr⟩⟩
  · rw [steps, hrun, hrun', State.polled_polled, State.polled_rxBuf, hn]
    rfl
  · rw [← size]
    exact bufRead_bufWrite _ _ _
  · intro j hj
    exact read_bufWrite_outside _ _ _ (.inr (by omega))

/-- Settles O31: the clock's first answer sets the deadline and starts the hunt, and the delivery makes the framer return. -/
theorem readFrameAnswersTheDeliveredFrame : Obligations.ReadFrameAnswersTheDeliveredFrame := by
  intro s secs t0 h d l body rest hr hcon hh ht hl hlen hd hi
  have hstart := step_fCmdT (s := { s with ctrl := .fCmdT secs }) hr rfl hi ht
  obtain ⟨rb, ln, polls, ct, hrun, hread, hbeyond, hpolls⟩ := framerReturnsTheDeliveredFrame
    (s.hunting secs t0 (pollInputs (d.polls l) ++ rest)) .readFrame _ h d l body rest hr rfl rfl hh hl hlen hd rfl
  refine ⟨_, rb, ln, polls, whenConnected_connected hcon _, ?_, hread, hbeyond, hpolls⟩
  rw [Nat.add_comm]
  exact (stepN_succ _ hstart).trans hrun

/-- Settles O32: the framer compares the clock's answer with the deadline before anything else. -/
theorem elapsedDeadlineEndsTheFramer : Obligations.ElapsedDeadlineEndsTheFramer := by
  intro s c dl t ph rest hr hc hi ht hdl
  have hstep := step_framerT hr hc hi ht
  rw [framerNow_elapsed hdl] at hstep
  exact ⟨hstep, by rintro rfl; exact hstep⟩

/-- Settles O34: with the deadline still ahead, the framer looks at the capacity of `RX_BUF` before it reads. -/
theorem fullBufferReturnsOverflow : Obligations.FullBufferReturnsOverflow := by
  intro s c dl t target rest hr hc hn hi ht hdl
  have hstep := step_framerT hr hc hi ht
  rw [framerNow_full hdl target (by exact hn)] at hstep
  exact ⟨hstep, by rintro rfl; exact hstep⟩

/-- Settles O36: the framer hands the provider's code to its caller, and each of the three callers ends with it. -/
theorem readErrorEndsTheCommand : Obligations.ReadErrorEndsTheCommand := by
  intro s c dl ph h e rest hr hc hh he hi
  rw [step_framerR hr hc hh hi (admits_chanRead.2 (.inr ⟨e, rfl, he⟩))]
  cases c with
  | readFrame => rfl
  | send len m => rfl
  | receive ms m expected => rfl

/-- Settles O33: the target of such a length is 2, which the length byte itself completes. -/
theorem shortDeclaredLengthReturnsTwoBytes : Obligations.ShortDeclaredLengthReturnsTwoBytes := by
  intro s c dl h l rest hr hc hh hn hl hi
  have target : targetOf l = 2 := max_eq_right hl
  rw [step_framerR hr hc hh hi (admits_chanRead.2 (.inl ⟨[l], rfl, le_rfl⟩))]
  simp only [framerRead, lengthRead, target]
  rw [bodyLoop_complete (by simp [hn])]
  simp [framerGoesOn, State.appendRx, bufWrite, readSize, hn]

end Sys2Proof.Machine

/-! The Timeout Controller's statements (spec/42_timeout.md): each command issues one call of the clock, whose answer ends
it. -/

namespace Sys2Proof.Machine

section
variable {s : State} {t : Nat} {rest : List Input}

/-- R114, R111: what the clock's answer makes of `ELAPSED`: `VALUE` is 1 from the deadline on, and 0 before it. -/
theorem elapsedNow_eq (t : Nat) (s : State) :
    elapsedNow t s = done { Result.plain .ok with value := if s.deadline ≤ t then 1 else 0 } s := by
  by_cases h : s.deadline ≤ t
  · simp [elapsedNow, elapsed, Result.withValue, h]
  · simp [elapsedNow, elapsed, Result.withValue, h]

/-- R113: the clock answers at `T_SET`. -/
theorem step_tSet {secs : Nat} (hr : s.refused = false) (hc : s.ctrl = .tSet secs)
    (hi : s.inputs = .answer (.now t) :: rest) (ht : s.lastNow ≤ t) :
    step s = setDeadlineNow secs t { s with inputs := rest, lastNow := t, trace := ⟨.now, .now t⟩ :: s.trace } :=
  (step_now hr (by simp [State.waiting, hc]) hi ht).trans (afterAnswer_tSet (by exact hc) t)

/-- R114: the clock answers at `T_ELAPSED`. -/
theorem step_tElapsed (hr : s.refused = false) (hc : s.ctrl = .tElapsed)
    (hi : s.inputs = .answer (.now t) :: rest) (ht : s.lastNow ≤ t) :
    step s = elapsedNow t { s with inputs := rest, lastNow := t, trace := ⟨.now, .now t⟩ :: s.trace } :=
  (step_now hr (by simp [State.waiting, hc]) hi ht).trans (afterAnswer_tElapsed (by exact hc) t)

end

/-! ### The obligations -/

/-- Settles O17: `SET_DEADLINE` waits at `T_SET`, and the clock's answer there ends it with the deadline set. -/
theorem setDeadlineAddsTheDuration : Obligations.SetDeadlineAddsTheDuration := by
  intro s secs t rest hr ht hi
  have hstep := step_tSet (s := { s with ctrl := .tSet secs }) hr rfl hi ht
  exact ⟨_, rfl, rfl, hstep⟩

/-- Settles O18: `ELAPSED` waits at `T_ELAPSED`, and the clock's answer there ends it with the inclusive comparison. -/
theorem elapsedComparesInclusively : Obligations.ElapsedComparesInclusively := by
  intro s t rest hr ht hi
  have hstep := step_tElapsed (s := { s with ctrl := .tElapsed }) hr rfl hi ht
  exact ⟨_, rfl, rfl, hstep.trans (elapsedNow_eq t _)⟩

end Sys2Proof.Machine

/-! The sender's statements (spec/43_sender.md). A `SEND` is followed from control point to control point: the head of an
attempt, the answer of the write, the clock's answer that starts the framer, and what the framer's outcome makes of the
attempt. The run of a `RECEIVE` stands beside it for the statement about two peers. -/

namespace Sys2Proof.Machine

/-! ### Issuing `SEND` and `RECEIVE` -/

section
variable {s : State} {len m : Nat} {p : List Byte}

theorem exec_send_usageError (h : s.connected = false ∨ 200 < len) :
    exec (.send len m) s = .next (s.finish (Result.plain .usageError)) := if_pos h

/-- Past its preconditions a `SEND` starts attempt 1. -/
theorem exec_send (hc : s.connected = true) (hl : len ≤ 200) : exec (.send len m) s = sendAttempt len m 1 s :=
  if_neg (not_or.2 ⟨by simp [hc], Nat.not_lt.2 hl⟩)

/-- A `SEND` at `S_WRITE` of attempt `n`: the data frame of payload `p` is in `TX_BUF`. -/
def State.offering (s : State) (len m : Nat) (p : List Byte) (n : BitVec 8) : State :=
  { s with
    txBuf := bufWrite s.txBuf 0 (frameOf p (seqByte s.txSeq)), txLen := len + 5, attempt := n, ctrl := .sWrite len m }

theorem sendAttempt_offers {n : Nat} (hn : n ≤ m) (hl : len ≤ 200) (hp : bufRead s.hostIn 0 len = some p) :
    sendAttempt len m n s = .next (s.offering len m p (BitVec.ofNat 8 n)) := sendAttempt_builds hn hl hp

theorem exec_send_offers (hc : s.connected = true) (hl : len ≤ 200) (hm : 1 ≤ m)
    (hp : bufRead s.hostIn 0 len = some p) : exec (.send len m) s = .next (s.offering len m p 1) :=
  (exec_send hc hl).trans (sendAttempt_offers hm hl hp)

/-- Past its precondition a `RECEIVE` starts attempt 1, with the expected number computed once (R132). -/
theorem exec_receive (max : Nat) (hc : s.connected = true) :
    exec (.receive max m) s = receiveAttempt max m (expectedSeq s.rxLast) 1 s := whenConnected_connected hc _

end

/-- A frame written at the start of a buffer reads back, and the bytes beyond it are the old ones. -/
theorem bufWrite_frameOf_reads (mem : Memory) {p : List Byte} {len : Nat} (hp : p.length = len) (q : Byte) :
    bufRead (bufWrite mem 0 (frameOf p q)) 0 (len + 5) = some (frameOf p q) ∧
    ∀ j, len + 5 ≤ j → (bufWrite mem 0 (frameOf p q)).read j = mem.read j := by
  have size : (frameOf p q).length = len + 5 := by rw [length_frameOf, hp]
  exact ⟨size ▸ bufRead_bufWrite _ _ _, fun _ hj => read_bufWrite_outside _ _ _ (.inr (by omega))⟩

/-! ### The answers a `SEND` waits for -/

section
variable {s : State} {len m : Nat} {h : Handle} {f : List Byte} {k : Int} {t : Nat} {rest : List Input}

theorem waiting_sWrite (hc : s.ctrl = .sWrite len m) (hh : s.chanHandle = some h)
    (hf : bufRead s.txBuf 0 s.txLen = some f) : s.waiting = .call (.chanWrite h f) := by
  simp only [State.waiting, hc]
  exact writeCall_written hh hf

/-- R14, R120: the channel answers the write of a frame, within the contract, where the block waits for it. -/
theorem step_chanWrite (hr : s.refused = false) (hw : s.waiting = .call (.chanWrite h f))
    (hi : s.inputs = .answer (.chanWrite k) :: rest) (hk : k ≤ (f.length : Int)) :
    step s = afterAnswer (.chanWrite k)
      { s with inputs := rest, trace := ⟨.chanWrite h f, .chanWrite k⟩ :: s.trace } :=
  step_answers hr hi hw (admits_chanWrite.2 ⟨k, rfl, hk⟩)

/-- R118: the channel answers at `S_WRITE`. -/
theorem step_sWrite (hr : s.refused = false) (hc : s.ctrl = .sWrite len m) (hh : s.chanHandle = some h)
    (hf : bufRead s.txBuf 0 s.txLen = some f) (hi : s.inputs = .answer (.chanWrite k) :: rest)
    (hk : k ≤ (s.txLen : Int)) :
    step s = sendWrote len m k { s with inputs := rest, trace := ⟨.chanWrite h f, .chanWrite k⟩ :: s.trace } :=
  (step_chanWrite hr (waiting_sWrite hc hh hf) hi (by rwa [bufRead_length hf])).trans
    (afterAnswer_sWrite (by exact hc) k)

/-- R120: an answer below the frame's length ends the `SEND`, and nothing is counted. -/
theorem step_sWrite_short (hr : s.refused = false) (hc : s.ctrl = .sWrite len m) (hh : s.chanHandle = some h)
    (hf : bufRead s.txBuf 0 s.txLen = some f) (hi : s.inputs = .answer (.chanWrite k) :: rest)
    (hk : k < (s.txLen : Int)) :
    step s = .next (State.finish { s with inputs := rest, trace := ⟨.chanWrite h f, .chanWrite k⟩ :: s.trace }
      (Result.withCode .transportFailure k)) :=
  (step_sWrite hr hc hh hf hi hk.le).trans (if_pos hk)

/-- R120: a full write is counted, and the `SEND` goes on to set its deadline. -/
theorem step_sWrite_full (hr : s.refused = false) (hc : s.ctrl = .sWrite len m) (hh : s.chanHandle = some h)
    (hf : bufRead s.txBuf 0 s.txLen = some f) (hi : s.inputs = .answer (.chanWrite (s.txLen : Int)) :: rest) :
    step s = .next { s with
      counters := s.counters.countFrameSent, ctrl := .sDl len m, inputs := rest,
      trace := ⟨.chanWrite h f, .chanWrite (s.txLen : Int)⟩ :: s.trace } :=
  (step_sWrite hr hc hh hf hi le_rfl).trans (if_neg (lt_irrefl _))

/-- R118, R121: the clock answers at `S_DL`. -/
theorem step_sDl (hr : s.refused = false) (hc : s.ctrl = .sDl len m) (hi : s.inputs = .answer (.now t) :: rest)
    (ht : s.lastNow ≤ t) :
    step s = sendNow len m t { s with inputs := rest, lastNow := t, trace := ⟨.now, .now t⟩ :: s.trace } :=
  (step_now hr (by simp [State.waiting, hc]) hi ht).trans (afterAnswer_sDl (by exact hc) t)

/-- A `SEND` whose frame `f` was written in full, once the clock has answered `t`: the frame is counted, `DEADLINE` is set
and the framer hunts on an empty `RX_BUF`. -/
def State.awaitingResponse (s : State) (len m : Nat) (h : Handle) (f : List Byte) (t : Nat) (rest : List Input) : State :=
  { s with
    counters := s.counters.countFrameSent, deadline := t + 4 * s.params.ticksPerSecond, rxLen := 0, lastNow := t,
    inputs := rest, ctrl := .framerT (.send len m) (t + 4 * s.params.ticksPerSecond) .hunt,
    trace := ⟨.now, .now t⟩ :: ⟨.chanWrite h f, .chanWrite (s.txLen : Int)⟩ :: s.trace }

/-- R118, R120, R121: a full write, then the clock's answer that sets the deadline. -/
theorem stepN_sWrite_full (hr : s.refused = false) (hc : s.ctrl = .sWrite len m) (hh : s.chanHandle = some h)
    (hf : bufRead s.txBuf 0 s.txLen = some f) (ht : s.lastNow ≤ t)
    (hi : s.inputs = .answer (.chanWrite (s.txLen : Int)) :: .answer (.now t) :: rest) (j : Nat) :
    stepN (2 + j) s = stepN j (s.awaitingResponse len m h f t rest) := by
  have write := step_sWrite_full hr hc hh hf hi
  have clock := step_sDl (len := len) (m := m) (s := { s with
    counters := s.counters.countFrameSent, ctrl := .sDl len m, inputs := .answer (.now t) :: rest,
    trace := ⟨.chanWrite h f, .chanWrite (s.txLen : Int)⟩ :: s.trace }) hr rfl rfl ht
  rw [Nat.add_comm, stepN_succ _ write, stepN_succ _ clock]
  rfl

end

/-! ### What the framer's outcome makes of an attempt -/

section
variable {s : State} {len m n : Nat} {p q : List Byte} {f : Byte}

theorem sendResponse_positive (h : f.toNat = s.txSeq.toNat) : sendResponse len m f s = .next (State.finish { s with
    counters := s.counters.countAckRx, txSeq := s.txSeq + 1 } (Result.plain .ok)) := by
  simp only [sendResponse, isPositiveAck, h, decide_true, if_true, nextTxSeq_eq, done_eq]

theorem sendResponse_negative (h : f.toNat ≠ s.txSeq.toNat) :
    sendResponse len m f s = sendRetry len m { s with counters := s.counters.countAckRx } := by
  simp [sendResponse, isPositiveAck, h]

/-- R123: any built frame that carries `TX_SEQ` is a positive acknowledgment. -/
theorem sendOutcome_positive (hq : q.length ≤ 200) (hf : bufRead s.rxBuf 0 n = some (frameOf q f))
    (h : f.toNat = s.txSeq.toNat) : sendOutcome len m (.got n) s = .next (State.finish { s with
      counters := s.counters.countAckRx, txSeq := s.txSeq + 1 } (Result.plain .ok)) := by
  rw [sendOutcome_good hf (verifyFrame_frameOf q f hq), byteAt_frameOf_two, sendResponse_positive h]

/-- R122, R123: the framer's outcome `o` uses up an attempt of a `SEND` and leaves the counters `c`. -/
def SendAttemptLost (s : State) (o : FramerOutcome) (c : Counters) : Prop :=
  (o = .timeout ∨ o = .overflow) ∧ c = s.counters.countTimeout ∨
    ∃ n f, o = .got n ∧ bufRead s.rxBuf 0 n = some f ∧
      (verifyFrame f = .bad ∧ c = s.counters.countBadRx ∨
       verifyFrame f = .good ∧ (byteAt f 2).toNat ≠ s.txSeq.toNat ∧ c = s.counters.countAckRx)

/-- Each kind of lost attempt is counted and goes on to the head of the loop. -/
theorem sendOutcome_lost {o : FramerOutcome} {c : Counters} (h : SendAttemptLost s o c) :
    sendOutcome len m o s = sendRetry len m { s with counters := c } := by
  rcases h with ⟨rfl | rfl, rfl⟩ | ⟨n, f, rfl, hf, ⟨hv, rfl⟩ | ⟨hv, hne, rfl⟩⟩
  · rfl
  · rfl
  · exact sendOutcome_bad hf hv
  · rw [sendOutcome_good hf hv, sendResponse_negative hne]

/-- R119, R124: with an attempt left, the frame is built anew and offered. -/
theorem sendRetry_offers (hn : s.attempt.toNat < m) (hl : len ≤ 200) (hp : bufRead s.hostIn 0 len = some p) :
    sendRetry len m s = .next (s.offering len m p (s.attempt + 1)) := by
  rw [sendRetry, sendAttempt_offers hn hl hp, ofNat_succ_attempt]

theorem sendRetry_givesUp (hn : m ≤ s.attempt.toNat) :
    sendRetry len m s = .next (s.finish (Result.plain .giveUp)) := sendAttempt_givesUp (Nat.lt_succ_of_le hn)

end

/-! ### A built frame reaches the framer -/

/-- R101, R109: the delivery of a built frame makes the framer return with the whole frame in `RX_BUF`. -/
theorem framer_returns_frameOf {s : State} {c : Caller} {dl : Nat} {h : Handle} {d : Delivery} {q : List Byte} {f : Byte}
    {rest : List Input} (hr : s.refused = false) (hc : s.ctrl = .framerT c dl .hunt) (hn : s.rxLen = 0)
    (hh : s.chanHandle = some h) (hq : q.length ≤ 200) (hd : d.bringsFrame s.lastNow dl q f)
    (hi : s.inputs = d.inputs q ++ rest) :
    ∃ rb ln polls ct, stepN d.steps s = framerReturn c (.got (q.length + 5)) { s with
        rxBuf := rb, rxLen := q.length + 5, ctrl := ct, lastNow := ln, inputs := rest, trace := polls ++ s.trace } ∧
      bufRead rb 0 (q.length + 5) = some (frameOf q f) ∧
      (∀ j, q.length + 5 ≤ j → rb.read j = s.rxBuf.read j) ∧ ∀ e ∈ polls, e.isPoll h := by
  have target : max (BitVec.ofNat 8 (q.length + 5)).toNat 2 = q.length + 5 := by
    rw [BitVec.toNat_ofNat]
    omega
  have frame : 212 :: BitVec.ofNat 8 (q.length + 5) :: (frameOf q f).drop 2 = frameOf q f := by
    simp [frameOf_eq]
  have := framerReturnsTheDeliveredFrame s c dl h d (BitVec.ofNat 8 (q.length + 5)) ((frameOf q f).drop 2) rest
    hr hc hn hh (by rw [BitVec.toNat_ofNat]; omega) (by rw [target, List.length_drop, length_frameOf]; omega) hd hi
  rwa [target, frame] at this

/-! ### A response that acknowledges the frame -/

/-- R118, R123: from `S_WRITE` of any attempt, a full write and a delivered frame that carries `TX_SEQ` end the `SEND`. -/
theorem send_acknowledged {s : State} {len m t : Nat} {x q : List Byte} {f : Byte} {h : Handle}
    {d : Delivery} {rest : List Input} (hr : s.refused = false) (hc : s.ctrl = .sWrite len m)
    (hh : s.chanHandle = some h) (hx : bufRead s.txBuf 0 s.txLen = some x) (hq : q.length ≤ 200)
    (hf : f.toNat = s.txSeq.toNat) (ht : s.lastNow ≤ t)
    (hd : d.bringsFrame t (t + 4 * s.params.ticksPerSecond) q f)
    (hi : s.inputs = .answer (.chanWrite (s.txLen : Int)) :: .answer (.now t) :: (d.inputs q ++ rest)) :
    ∃ rb ln polls,
      stepN (2 + d.steps) s = .next (State.finish { s with
        txSeq := s.txSeq + 1, counters := s.counters.countFrameSent.countAckRx, rxBuf := rb, rxLen := q.length + 5,
        deadline := t + 4 * s.params.ticksPerSecond, lastNow := ln, inputs := rest,
        trace := polls ++ ⟨.now, .now t⟩ :: ⟨.chanWrite h x, .chanWrite (s.txLen : Int)⟩ :: s.trace }
        (Result.plain .ok)) ∧
      bufRead rb 0 (q.length + 5) = some (frameOf q f) ∧
      (∀ j, q.length + 5 ≤ j → rb.read j = s.rxBuf.read j) ∧ ∀ e ∈ polls, e.isPoll h := by
  obtain ⟨rb, ln, polls, ct, run, reads⟩ := framer_returns_frameOf
    (s := s.awaitingResponse len m h x t (d.inputs q ++ rest)) hr rfl rfl hh hq hd rfl
  refine ⟨rb, ln, polls, ?_, reads⟩
  rw [stepN_sWrite_full hr hc hh hx ht hi, run, framerReturn, sendOutcome_positive hq reads.1 (by exact hf)]
  rfl

/-! ### Attempts to which nothing comes back -/

theorem Exchange.isPoll.not_isWrite {h : Handle} {e : Exchange} (he : e.isPoll h) : e.isWrite = false := by
  rcases he with he | ⟨n, he⟩ <;> simp [Exchange.isWrite, he]

theorem filter_isWrite_polls {h : Handle} {tr : List Exchange} (ht : ∀ e ∈ tr, e.isPoll h) :
    tr.filter Exchange.isWrite = [] :=
  List.filter_eq_nil_iff.2 fun e he => by simp [(ht e he).not_isWrite]

/-- R112: on a clock that does not run backwards, the last answer is at least the one before it. -/
theorem pairwise_le_concat {a e : Nat} {ts : List Nat} (h : (a :: (ts ++ [e])).Pairwise (· ≤ ·)) :
    (a :: ts).Pairwise (· ≤ ·) ∧ ts.getLastD a ≤ e := by
  obtain ⟨h1, -, h2⟩ := List.pairwise_append.1 (show ((a :: ts) ++ [e]).Pairwise (· ≤ ·) from h)
  exact ⟨h1, h2 _ List.getLastD_mem_cons e (List.mem_singleton_self e)⟩

/-- The clock goes on from the end of an attempt. -/
theorem LostAttempt.times_append {x : LostAttempt} {start : Nat} {ts : List Nat}
    (h : (start :: (x.times ++ ts)).Pairwise (· ≤ ·)) :
    (start :: x.times).Pairwise (· ≤ ·) ∧ (x.endAt :: ts).Pairwise (· ≤ ·) := by
  obtain ⟨h1, h2, h3⟩ := List.pairwise_append.1 (show ((start :: x.times) ++ ts).Pairwise (· ≤ ·) from h)
  exact ⟨h1, List.pairwise_cons.2 ⟨h3 x.endAt (by simp [LostAttempt.times]), h2⟩⟩

/-- A poll takes two answers. -/
theorem length_pollInputs (ps : List Poll) : (pollInputs ps).length = 2 * ps.length := by
  simp [pollInputs, Poll.inputs, List.length_flatMap, Nat.mul_comm]

theorem stepN_one (s : State) : stepN 1 s = step s := by
  simp only [stepN]
  cases step s <;> rfl

/-- R100, R111: nothing but noise before the deadline, and then a clock answer that reaches it: the hunt times out. -/
theorem hunt_times_out {s : State} {c : Caller} {dl t : Nat} {h : Handle} {noise : List Poll} {rest : List Input}
    (hr : s.refused = false) (hc : s.ctrl = .framerT c dl .hunt) (hh : s.chanHandle = some h)
    (hn : ∀ p ∈ noise, p.bytes.length ≤ 1 ∧ p.bytes ≠ [Config.startMarker] ∧ p.time < dl)
    (ht : (s.lastNow :: (noise.map Poll.time ++ [t])).Pairwise (· ≤ ·)) (hdl : dl ≤ t)
    (hi : s.inputs = pollInputs noise ++ .answer (.now t) :: rest) :
    ∃ tr, stepN (2 * noise.length + 1) s = framerReturn c .timeout (s.polled s.rxBuf s.rxLen s.ctrl t rest tr) ∧
      ∀ e ∈ tr, e.isPoll h := by
  obtain ⟨hmono, hlast⟩ := pairwise_le_concat ht
  obtain ⟨_, tr, run, rfl, htr⟩ := hunt_noise noise (.answer (.now t) :: rest) 1 s hr hc hh
    (fun p hp => ⟨(hn p hp).1, (hn p hp).2.1⟩) hmono (fun p hp => (hn p hp).2.2) hi
  refine ⟨⟨.now, .now t⟩ :: tr, ?_, List.forall_mem_cons.2 ⟨.inl rfl, htr⟩⟩
  rw [run, stepN_one, step_framerT (by exact hr) rfl rfl hlast, framerNow_elapsed hdl, hc]
  rfl

/-- A `SEND` after an attempt that began at `S_WRITE` and to which nothing came back, with the exchanges `tr` made in it. -/
def State.lapsed (s : State) (len m : Nat) (x : LostAttempt) (rest : List Input) (tr : List Exchange) : State :=
  { s with
    counters := s.counters.countFrameSent.countTimeout, rxLen := 0, deadline := x.setAt + 4 * s.params.ticksPerSecond,
    lastNow := x.endAt, inputs := rest, trace := tr ++ s.trace,
    ctrl := .framerT (.send len m) (x.setAt + 4 * s.params.ticksPerSecond) .hunt }

/-- R122, R127: from `S_WRITE`, an attempt to which nothing comes back makes one write of the offered frame and ends in a
timeout at the head of the loop. -/
theorem send_attempt_lapses {s : State} {len m : Nat} {f : List Byte} {h : Handle} {x : LostAttempt}
    {rest : List Input} (hr : s.refused = false) (hc : s.ctrl = .sWrite len m) (hh : s.chanHandle = some h)
    (hf : bufRead s.txBuf 0 s.txLen = some f) (hx : x.lapses (4 * s.params.ticksPerSecond))
    (ht : (s.lastNow :: x.times).Pairwise (· ≤ ·)) (hi : s.inputs = x.inputs s.txLen ++ rest) :
    ∃ tr, stepN (x.inputs s.txLen).length s = sendRetry len m (s.lapsed len m x rest tr) ∧
      tr.filter Exchange.isWrite = [⟨.chanWrite h f, .chanWrite (s.txLen : Int)⟩] := by
  obtain ⟨hset, hmono⟩ := List.pairwise_cons.1 ht
  have hi' : s.inputs = .answer (.chanWrite (s.txLen : Int)) :: .answer (.now x.setAt) ::
      (pollInputs x.noise ++ .answer (.now x.endAt) :: rest) := by
    rw [hi]
    simp [LostAttempt.inputs]
  have steps : (x.inputs s.txLen).length = 2 + (2 * x.noise.length + 1) := by
    simp only [LostAttempt.inputs, List.length_cons, List.length_append, length_pollInputs, List.length_nil]
    omega
  obtain ⟨tr, run, htr⟩ := hunt_times_out
    (s := s.awaitingResponse len m h f x.setAt (pollInputs x.noise ++ .answer (.now x.endAt) :: rest))
    hr rfl hh hx.1 hmono hx.2 rfl
  refine ⟨tr ++ [⟨.now, .now x.setAt⟩, ⟨.chanWrite h f, .chanWrite (s.txLen : Int)⟩], ?_, ?_⟩
  · rw [steps, stepN_sWrite_full hr hc hh hf (hset _ List.mem_cons_self) hi', run]
    simp only [State.lapsed, List.append_assoc]
    rfl
  · rw [List.filter_append, filter_isWrite_polls htr]
    rfl

/-- The counters after `n` attempts to which nothing came back: each counts one full write and one timeout. -/
def Counters.countLapses (c : Counters) (n : Nat) : Counters :=
  { c with framesSent := c.framesSent + BitVec.ofNat 32 n, timeouts := c.timeouts + BitVec.ofNat 32 n }

theorem Counters.countLapses_zero (c : Counters) : c.countLapses 0 = c := by
  simp [countLapses]

theorem Counters.countLapses_succ (c : Counters) (n : Nat) :
    c.countLapses (n + 1) = c.countFrameSent.countTimeout.countLapses n := by
  rw [Nat.add_comm n 1]
  simp [countLapses, countFrameSent, countTimeout, BitVec.ofNat_add, ← BitVec.add_assoc]

/-- R124, R127: from the head of attempt `n`, as many attempts as are left, to each of which nothing comes back, make the
`SEND` give up, after one write of the identical frame in each. -/
theorem send_lapses_give_up {len m : Nat} {p : List Byte} {h : Handle} {rest : List Input} (hl : len ≤ 200)
    (hm : m ≤ 255) (xs : List LostAttempt) (n : Nat) (s : State) (hr : s.refused = false) (hh : s.chanHandle = some h)
    (hp : bufRead s.hostIn 0 len = some p) (hn : n + xs.length = m + 1)
    (hx : ∀ x ∈ xs, x.lapses (4 * s.params.ticksPerSecond))
    (ht : (s.lastNow :: xs.flatMap LostAttempt.times).Pairwise (· ≤ ·))
    (hi : s.inputs = xs.flatMap (fun x => x.inputs (len + 5)) ++ rest) :
    ∃ a tb tl rl dl ln tr, sendAttempt len m n s = .next a ∧
      stepN (xs.flatMap fun x => x.inputs (len + 5)).length a = .next (State.finish { s with
        counters := s.counters.countLapses xs.length, txBuf := tb, txLen := tl, rxLen := rl, deadline := dl,
        lastNow := ln, inputs := rest, trace := tr ++ s.trace } (Result.plain .giveUp)) ∧
      tr.filter Exchange.isWrite = List.replicate xs.length
        ⟨.chanWrite h (frameOf p (seqByte s.txSeq)), .chanWrite ((len + 5 : Nat) : Int)⟩ := by
  induction xs generalizing n s with
  | nil =>
    -- no attempt is left
    refine ⟨_, s.txBuf, s.txLen, s.rxLen, s.deadline, s.lastNow, [], sendAttempt_givesUp ?_, ?_, rfl⟩
    · rw [List.length_nil] at hn
      omega
    · rw [List.length_nil, Counters.countLapses_zero, ← show s.inputs = rest from hi]
      rfl
  | cons x xs ih =>
    rw [List.length_cons] at hn
    rw [List.flatMap_cons, List.append_assoc] at hi
    obtain ⟨htx, htxs⟩ := LostAttempt.times_append ht
    have frame := (bufWrite_frameOf_reads s.txBuf (bufRead_length hp) (seqByte s.txSeq)).1
    obtain ⟨tr, run, writes⟩ := send_attempt_lapses (s := s.offering len m p (BitVec.ofNat 8 n)) (len := len) (m := m)
      hr rfl hh frame (hx x List.mem_cons_self) htx hi
    have next : (BitVec.ofNat 8 n).toNat + 1 = n + 1 := by
      rw [BitVec.toNat_ofNat]
      omega
    obtain ⟨a, tb, tl, rl, dl, ln, tr', head, run', writes'⟩ := ih (n + 1)
      ((s.offering len m p (BitVec.ofNat 8 n)).lapsed len m x (xs.flatMap (fun x => x.inputs (len + 5)) ++ rest) tr)
      hr hh hp (by omega) (fun y hy => hx y (List.mem_cons_of_mem _ hy)) htxs rfl
    rw [← next] at head
    refine ⟨_, tb, tl, rl, dl, ln, tr' ++ tr, sendAttempt_offers (by omega) hl hp, ?_, ?_⟩
    · rw [List.flatMap_cons, List.length_append, List.length_cons, Counters.countLapses_succ, List.append_assoc]
      exact (stepN_add _ _ (run.trans head)).trans run'
    · rw [List.filter_append, writes, writes', List.length_cons, List.replicate_succ']
      rfl

/-! ### The sequence byte of a data frame -/

theorem toNat_seqByte (x : BitVec 4) : (seqByte x).toNat = x.toNat := by
  rw [seqByte, BitVec.toNat_ofNat]
  omega

/-- R22, R132: a receiver that has accepted number `x` expects the number that follows it at the sender. -/
theorem expectedSeq_seqByte (x : BitVec 4) : expectedSeq (seqByte x) = (x + 1).toNat := by
  revert x
  decide

/-! ### The run of a `RECEIVE` whose data is returned -/

section
variable {s : State} {ms m e n t : Nat} {path : AckPath} {d q : List Byte} {f : Byte} {h : Handle} {rest : List Input}

/-- A `RECEIVE` once the clock has answered `t`: `DEADLINE` is set and the framer hunts on an empty `RX_BUF`. -/
def State.awaitingFrame (s : State) (ms m e t : Nat) (rest : List Input) : State :=
  { s with
    deadline := t + 6 * s.params.ticksPerSecond, rxLen := 0, lastNow := t, inputs := rest,
    ctrl := .framerT (.receive ms m e) (t + 6 * s.params.ticksPerSecond) .hunt, trace := ⟨.now, .now t⟩ :: s.trace }

/-- R134, R135: the clock answers at `R_DL`. -/
theorem step_rDl (hr : s.refused = false) (hc : s.ctrl = .rDl ms m e) (hi : s.inputs = .answer (.now t) :: rest)
    (ht : s.lastNow ≤ t) : step s = .next (s.awaitingFrame ms m e t rest) :=
  (step_now hr (by simp [State.waiting, hc]) hi ht).trans (afterAnswer_rDl (by exact hc) t)

/-- R134: a built frame is Good: it is counted, classified and acknowledged, with its payload truncated. -/
theorem receiveOutcome_frameOf (hq : q.length ≤ 200) (hf : bufRead s.rxBuf 0 n = some (frameOf q f)) :
    receiveOutcome ms m e (.got n) s =
      receiveFrame ms m e f (q.take ms) { s with counters := s.counters.countGoodRx } := by
  simp only [receiveOutcome]
  rw [withRxFrame_written hf, verifyFrame_frameOf q f hq, withExtracted_ok (extractPayload_frameOf q f ms hq)]

/-- R136, R137: a frame with the expected number, or with the number accepted last, is on a path that returns its data,
which leaves its number in `RX_LAST` and echoes it. -/
theorem receiveFrame_returned (hf : f.toNat = e ∨ (f.toNat : Int) = sint8 s.rxLast) :
    ∃ path, path ≠ .outOfSequence ∧ receiveFrame ms m e f d s = .next { s with
      rxLast := f, txBuf := bufWrite s.txBuf 0 (frameOf [] f), txLen := 5, ctrl := .rAck ms m e path f d } := by
  rcases classify_cases f e s.rxLast with ⟨hp, -⟩ | ⟨hp, -, hlast⟩ | ⟨-, hne, hne'⟩
  · refine ⟨.newBlock, by simp, ?_⟩
    simp only [receiveFrame, hp, sendAck_eq]
    rfl
  · obtain rfl := eq_of_toNat_eq_sint8 hlast
    refine ⟨.duplicate, by simp, ?_⟩
    simp only [receiveFrame, hp, sendAck_eq]
    rfl
  · exact absurd hf (not_or.2 ⟨hne, hne'⟩)

/-- R136, R137: a full acknowledgment on a path that returns the data ends the `RECEIVE`. -/
theorem ackWrote_returned {k : Int} (hk : ¬ k < (s.txLen : Int)) (hp : path ≠ .outOfSequence) :
    ackWrote ms m e path d k s = deliver d { s with counters := s.counters.countAckSent } := by
  simp only [ackWrote]
  rw [if_neg hk]
  cases path with
  | newBlock => rfl
  | duplicate => rfl
  | outOfSequence => exact absurd rfl hp

theorem waiting_rAck {x : List Byte} (hc : s.ctrl = .rAck ms m e path f d) (hh : s.chanHandle = some h)
    (hx : bufRead s.txBuf 0 s.txLen = some x) : s.waiting = .call (.chanWrite h x) := by
  simp only [State.waiting, hc]
  exact writeCall_written hh hx

/-- R139: the channel takes the whole acknowledgment at `R_ACK`. -/
theorem step_rAck_full {x : List Byte} (hr : s.refused = false) (hc : s.ctrl = .rAck ms m e path f d)
    (hh : s.chanHandle = some h) (hx : bufRead s.txBuf 0 s.txLen = some x)
    (hi : s.inputs = .answer (.chanWrite (s.txLen : Int)) :: rest) (hp : path ≠ .outOfSequence) :
    step s = deliver d { s with
      counters := s.counters.countAckSent, inputs := rest,
      trace := ⟨.chanWrite h x, .chanWrite (s.txLen : Int)⟩ :: s.trace } := by
  rw [step_chanWrite hr (waiting_rAck hc hh hx) hi (by rw [bufRead_length hx]), afterAnswer_rAck (by exact hc)]
  exact ackWrote_returned (lt_irrefl _) hp

/-- R134, R136, R137: from `R_DL` of any attempt, a delivered frame with the expected number or with the number accepted
last, and a full write of its acknowledgment, end the `RECEIVE` with the payload returned. -/
theorem receive_returns {dv : Delivery} (hr : s.refused = false) (hc : s.ctrl = .rDl ms m e)
    (hh : s.chanHandle = some h) (hq : q.length ≤ 200) (hf : f.toNat = e ∨ (f.toNat : Int) = sint8 s.rxLast)
    (ht : s.lastNow ≤ t) (hd : dv.bringsFrame t (t + 6 * s.params.ticksPerSecond) q f)
    (hi : s.inputs = .answer (.now t) :: (dv.inputs q ++ .answer (.chanWrite 5) :: rest)) :
    ∃ rb ln polls,
      stepN (1 + dv.steps + 1) s = .next (State.finish { s with
        rxLast := f, counters := s.counters.countGoodRx.countAckSent,
        txBuf := bufWrite s.txBuf 0 (frameOf [] f), txLen := 5, rxBuf := rb, rxLen := q.length + 5,
        hostOut := bufWrite s.hostOut 0 (q.take ms), outLen := (q.take ms).length,
        deadline := t + 6 * s.params.ticksPerSecond, lastNow := ln, inputs := rest,
        trace := ⟨.chanWrite h (frameOf [] f), .chanWrite 5⟩ :: polls ++ ⟨.now, .now t⟩ :: s.trace }
        (Result.withValue .ok (q.take ms).length)) ∧
      bufRead rb 0 (q.length + 5) = some (frameOf q f) ∧
      (∀ j, q.length + 5 ≤ j → rb.read j = s.rxBuf.read j) ∧ ∀ x ∈ polls, x.isPoll h := by
  obtain ⟨rb, ln, polls, ct, run, reads⟩ := framer_returns_frameOf
    (s := s.awaitingFrame ms m e t (dv.inputs q ++ .answer (.chanWrite 5) :: rest)) hr rfl rfl hh hq hd rfl
  rw [framerReturn, receiveOutcome_frameOf hq reads.1] at run
  obtain ⟨path, hpath, offer⟩ := receiveFrame_returned (ms := ms) (m := m) (d := q.take ms) (s := { s with
    counters := s.counters.countGoodRx, rxBuf := rb, rxLen := q.length + 5,
    deadline := t + 6 * s.params.ticksPerSecond, ctrl := ct, lastNow := ln, inputs := .answer (.chanWrite 5) :: rest,
    trace := polls ++ ⟨.now, .now t⟩ :: s.trace }) hf
  have toAck := (stepN_add 1 dv.steps ((stepN_one s).trans (step_rDl hr hc hi ht))).trans (run.trans offer)
  have frame := (bufWrite_frameOf_reads s.txBuf (p := []) rfl f).1
  exact ⟨rb, ln, polls, ((stepN_add _ 1 toAck).trans (stepN_one _)).trans (step_rAck_full hr rfl hh frame rfl hpath),
    reads⟩

end

/-! ### The obligations -/

/-- Settles O37: the precondition is checked before anything else. -/
theorem sendOutsideItsPreconditionIsAUsageError : Obligations.SendOutsideItsPreconditionIsAUsageError :=
  fun _ _ _ => exec_send_usageError

/-- Settles O38: attempt 1 of no attempts is one too many, at the head of either loop. -/
theorem noAttemptsGiveUpAtOnce : Obligations.NoAttemptsGiveUpAtOnce := fun _ x hc =>
  ⟨fun hx => (exec_send hc hx).trans (sendAttempt_givesUp Nat.one_pos),
    (exec_receive x hc).trans (receiveAttempt_givesUp Nat.one_pos)⟩

/-- Settles O39: the head of the loop builds the frame, and the block then waits for its write. -/
theorem sendOffersItsDataFrame : Obligations.SendOffersItsDataFrame := by
  intro s len attempts p h hc hh hl ha hp
  obtain ⟨frame, beyond⟩ := bufWrite_frameOf_reads s.txBuf (bufRead_length hp) (seqByte s.txSeq)
  exact ⟨_, exec_send_offers hc hl ha hp, frame, beyond, waiting_sWrite rfl hh frame⟩

/-- Settles O40: the head of the loop offers the frame, and its full write and the response end the command. -/
theorem sendSucceedsOnAMatchingResponse : Obligations.SendSucceedsOnAMatchingResponse := by
  intro s len attempts t0 p q f h d rest hr hc hh hl ha hp hq hf ht hd hi
  obtain ⟨frame, beyond⟩ := bufWrite_frameOf_reads s.txBuf (bufRead_length hp) (seqByte s.txSeq)
  refine ⟨⟨_, exec_send_offers hc hl ha hp, frame, beyond⟩, fun tb n htb => ?_⟩
  exact send_acknowledged hr rfl hh htb hq hf ht hd hi

/-- Settles O41: the write is answered short or in full. -/
theorem dataFrameWriteIsFullOrEndsTheSend : Obligations.DataFrameWriteIsFullOrEndsTheSend := by
  intro s len attempts h f k rest hr hc hh hf hi
  refine ⟨step_sWrite_short hr hc hh hf hi, ?_⟩
  rintro rfl
  exact step_sWrite_full hr hc hh hf hi

/-- Settles O42: every lost attempt is counted and goes on to the head of the loop, which rebuilds the frame or gives up. -/
theorem lostSendAttemptIsCountedAndRetried : Obligations.LostSendAttemptIsCountedAndRetried := by
  intro s len attempts p hl hp
  obtain ⟨frame, beyond⟩ := bufWrite_frameOf_reads s.txBuf (bufRead_length hp) (seqByte s.txSeq)
  refine ⟨_, frame, beyond, fun o c hlost => ?_⟩
  have counted := sendOutcome_lost (len := len) (m := attempts) (show SendAttemptLost s o c from hlost)
  exact ⟨fun hn => counted.trans (sendRetry_offers hn hl hp), fun hn => counted.trans (sendRetry_givesUp hn)⟩

/-- Settles O43: the attempts run out one by one from the head of attempt 1. -/
theorem noResponseGivesUpAfterExactlyTheAttempts : Obligations.NoResponseGivesUpAfterExactlyTheAttempts := by
  intro s len p h xs rest hr hc hh hl hp h1 h255 hx ht hi
  obtain ⟨a, tb, tl, rl, dl, ln, tr, head, run, writes⟩ :=
    send_lapses_give_up hl h255 xs 1 s hr hh hp (Nat.add_comm _ _) hx ht hi
  exact ⟨a, _, tr, (exec_send hc hl).trans head, run, rfl, rfl, rfl, rfl, rfl, hc, hh, rfl, rfl, writes⟩

/-- Settles O56: the receiver returns the sender's frame on either path, its acknowledgment carries the sender's `TX_SEQ`,
and both then move on from that number. -/
theorem peersDeliverABlockAndStayInStep : Obligations.PeersDeliverABlockAndStayInStep := by
  intro a b ha hb len sendAttempts max receiveAttempts e ta tb p da db resta restb hra hca hha hrb hcb hhb hpeer he hp hl
    hmax hsatt hratt hta htb hdb hda hib hia
  obtain rfl := bufRead_length hp
  have expected : expectedSeq b.rxLast = e := by
    rw [expectedSeq_eq]
    omega
  have field : (seqByte a.txSeq).toNat = e ∨ ((seqByte a.txSeq).toNat : Int) = sint8 b.rxLast := by
    rw [toNat_seqByte]
    exact hpeer.imp (fun h => h.symm.trans expected) Eq.symm
  refine ⟨⟨_, exec_send_offers hca hl hsatt hp, (bufWrite_frameOf_reads _ rfl _).1⟩, ?_, fun m na nb hm => ?_⟩
  · rw [exec_receive max hcb, receiveAttempt_waits hratt, expected]
    rfl
  · obtain ⟨_, _, _, runa, -⟩ := send_acknowledged (s := { a with
      txBuf := m, txLen := p.length + 5, attempt := na, ctrl := .sWrite p.length sendAttempts }) (q := []) hra rfl hha hm
      (Nat.zero_le _) (toNat_seqByte _) hta hda hia
    obtain ⟨_, _, _, runb, -⟩ := receive_returns (s := { b with
      attempt := nb, ctrl := .rDl max receiveAttempts e }) hrb rfl hhb hl field htb hdb hib
    rw [List.take_of_length_le hmax] at runb
    exact ⟨waiting_sWrite rfl hha hm, _, _, runb, rfl, runa, rfl, rfl, rfl, rfl, rfl, bufRead_bufWrite _ _ _,
      expectedSeq_seqByte _⟩

end Sys2Proof.Machine

/-! The receiver's statements (spec/44_receiver.md): the head of an attempt, the run up to the classified frame, and what an
answer of the acknowledgment's write makes of each path. A path that returns its data goes through `receive_returns`. -/

namespace Sys2Proof.Machine

section
variable {s : State} {ms m e t : Nat} {path : AckPath} {d q : List Byte} {f : Byte} {h : Handle} {rest : List Input}

/-! ### The head of an attempt -/

/-- R132, R134: a `RECEIVE` waits in attempt 1 for the clock, with the expected number of the rule's own arithmetic. -/
theorem exec_receive_waits (hc : s.connected = true) (hm : 1 ≤ m) (he : (e : Int) = (sint8 s.rxLast + 1) % 16) :
    exec (.receive ms m) s = .next { s with attempt := 1, ctrl := .rDl ms m e } := by
  have expected : expectedSeq s.rxLast = e := by rw [expectedSeq_eq, ← he, Int.toNat_natCast]
  rw [exec_receive ms hc, receiveAttempt_waits hm, expected]
  rfl

theorem receiveRetry_waits (hn : s.attempt.toNat < m) :
    receiveRetry ms m e s = .next { s with attempt := s.attempt + 1, ctrl := .rDl ms m e } := by
  rw [receiveRetry, receiveAttempt_waits hn, ofNat_succ_attempt]

theorem receiveRetry_givesUp (hn : m ≤ s.attempt.toNat) :
    receiveRetry ms m e s = .next (s.finish (Result.plain .giveUp)) := receiveAttempt_givesUp (Nat.lt_succ_of_le hn)

/-- R134, R140: the next attempt, if there is one. -/
theorem receiveRetry_eq : receiveRetry ms m e s = .next (
    if s.attempt.toNat < m then { s with attempt := s.attempt + 1, ctrl := .rDl ms m e }
    else s.finish (Result.plain .giveUp)) := by
  split
  next hn => exact receiveRetry_waits hn
  next hn => exact receiveRetry_givesUp (Nat.not_lt.1 hn)

/-! ### What the framer's outcome makes of an attempt -/

/-- R135: the framer's outcome `o` uses up an attempt of a `RECEIVE` without an acknowledgment and leaves the counters `c`. -/
def ReceiveAttemptLost (s : State) (o : FramerOutcome) (c : Counters) : Prop :=
  (o = .timeout ∨ o = .overflow) ∧ c = s.counters.countTimeout ∨
    ∃ n f, o = .got n ∧ bufRead s.rxBuf 0 n = some f ∧ verifyFrame f = .bad ∧ c = s.counters.countBadRx

/-- Each kind of lost attempt is counted and goes on to the head of the loop. -/
theorem receiveOutcome_lost {o : FramerOutcome} {c : Counters} (hl : ReceiveAttemptLost s o c) :
    receiveOutcome ms m e o s = receiveRetry ms m e { s with counters := c } := by
  rcases hl with ⟨rfl | rfl, rfl⟩ | ⟨n, f, rfl, hf, hv, rfl⟩
  · rfl
  · rfl
  · exact receiveOutcome_bad hf hv

/-- R138: a frame with neither number is answered with an echo of `RX_LAST`, which stays. -/
theorem receiveFrame_outOfSequence (hne : f.toNat ≠ e) (hlast : (f.toNat : Int) ≠ sint8 s.rxLast) :
    receiveFrame ms m e f d s = .next { s with
      txBuf := bufWrite s.txBuf 0 (frameOf [] s.rxLast), txLen := 5, ctrl := .rAck ms m e .outOfSequence f d } := by
  simp only [receiveFrame, classify_outOfSequence hne hlast, sendAck_eq, State.accept, echoOf, u8_sint8]

/-- R134, R135: from `R_DL` of any attempt, the delivery of a built frame leads to its classification. -/
theorem receive_classifies {dv : Delivery} (hr : s.refused = false) (hc : s.ctrl = .rDl ms m e)
    (hh : s.chanHandle = some h) (hq : q.length ≤ 200) (ht : s.lastNow ≤ t)
    (hd : dv.bringsFrame t (t + 6 * s.params.ticksPerSecond) q f)
    (hi : s.inputs = .answer (.now t) :: (dv.inputs q ++ rest)) :
    ∃ rb ln polls ct, stepN (1 + dv.steps) s = receiveFrame ms m e f (q.take ms) { s with
        counters := s.counters.countGoodRx, rxBuf := rb, rxLen := q.length + 5,
        deadline := t + 6 * s.params.ticksPerSecond, ctrl := ct, lastNow := ln, inputs := rest,
        trace := polls ++ ⟨.now, .now t⟩ :: s.trace } ∧
      bufRead rb 0 (q.length + 5) = some (frameOf q f) ∧
      (∀ j, q.length + 5 ≤ j → rb.read j = s.rxBuf.read j) ∧ ∀ x ∈ polls, x.isPoll h := by
  obtain ⟨rb, ln, polls, ct, run, reads⟩ := framer_returns_frameOf
    (s := s.awaitingFrame ms m e t (dv.inputs q ++ rest)) hr rfl rfl hh hq hd rfl
  rw [framerReturn, receiveOutcome_frameOf hq reads.1] at run
  exact ⟨rb, ln, polls, ct, (stepN_add 1 _ ((stepN_one s).trans (step_rDl hr hc hi ht))).trans run, reads⟩

/-! ### The answer of the acknowledgment's write -/

/-- R139: the channel answers at `R_ACK`, on any path. -/
theorem step_rAck {x : List Byte} {k : Int} (hr : s.refused = false) (hc : s.ctrl = .rAck ms m e path f d)
    (hh : s.chanHandle = some h) (hx : bufRead s.txBuf 0 s.txLen = some x)
    (hi : s.inputs = .answer (.chanWrite k) :: rest) (hk : k ≤ (s.txLen : Int)) :
    step s = ackWrote ms m e path d k
      { s with inputs := rest, trace := ⟨.chanWrite h x, .chanWrite k⟩ :: s.trace } :=
  (step_chanWrite hr (waiting_rAck hc hh hx) hi (by rwa [bufRead_length hx])).trans (afterAnswer_rAck (by exact hc) k)

theorem ackWrote_short {k : Int} (hk : k < (s.txLen : Int)) :
    ackWrote ms m e path d k s = .next (s.finish (Result.withCode .transportFailure k)) := if_pos hk

/-- R138: a full acknowledgment of a frame out of sequence is counted, and the attempt is used up. -/
theorem ackWrote_outOfSequence {k : Int} (hk : ¬ k < (s.txLen : Int)) :
    ackWrote ms m e .outOfSequence d k s = receiveRetry ms m e { s with counters := s.counters.countAckSent } :=
  if_neg hk

/-- R138: from `R_DL` of any attempt, a delivered frame with neither number, and a full write of its acknowledgment, use up
the attempt. -/
theorem receive_naks {dv : Delivery} (hr : s.refused = false) (hc : s.ctrl = .rDl ms m e)
    (hh : s.chanHandle = some h) (hq : q.length ≤ 200) (hne : f.toNat ≠ e) (hlast : (f.toNat : Int) ≠ sint8 s.rxLast)
    (ht : s.lastNow ≤ t) (hd : dv.bringsFrame t (t + 6 * s.params.ticksPerSecond) q f)
    (hi : s.inputs = .answer (.now t) :: (dv.inputs q ++ .answer (.chanWrite 5) :: rest)) :
    ∃ rb ln polls ct, stepN (1 + dv.steps + 1) s = receiveRetry ms m e { s with
        counters := s.counters.countGoodRx.countAckSent, txBuf := bufWrite s.txBuf 0 (frameOf [] s.rxLast), txLen := 5,
        rxBuf := rb, rxLen := q.length + 5, deadline := t + 6 * s.params.ticksPerSecond, ctrl := ct, lastNow := ln,
        inputs := rest,
        trace := ⟨.chanWrite h (frameOf [] s.rxLast), .chanWrite 5⟩ :: polls ++ ⟨.now, .now t⟩ :: s.trace } ∧
      bufRead rb 0 (q.length + 5) = some (frameOf q f) ∧
      (∀ j, q.length + 5 ≤ j → rb.read j = s.rxBuf.read j) ∧ ∀ x ∈ polls, x.isPoll h := by
  obtain ⟨rb, ln, polls, ct, run, reads⟩ := receive_classifies hr hc hh hq ht hd hi
  have toAck := run.trans (receiveFrame_outOfSequence hne hlast)
  have frame := (bufWrite_frameOf_reads s.txBuf (p := []) rfl s.rxLast).1
  have ack := step_rAck (s := { s with
    counters := s.counters.countGoodRx, txBuf := bufWrite s.txBuf 0 (frameOf [] s.rxLast), txLen := 5, rxBuf := rb,
    rxLen := q.length + 5, deadline := t + 6 * s.params.ticksPerSecond,
    ctrl := .rAck ms m e .outOfSequence f (q.take ms), lastNow := ln, inputs := .answer (.chanWrite 5) :: rest,
    trace := polls ++ ⟨.now, .now t⟩ :: s.trace }) hr rfl hh frame rfl le_rfl
  exact ⟨rb, ln, polls, _, ((stepN_add _ 1 toAck).trans (stepN_one _)).trans
    (ack.trans (ackWrote_outOfSequence (lt_irrefl _))), reads⟩

end

/-! ### The data returned -/

/-- Data truncated to `ms` bytes and written at the start of a buffer reads back, and the bytes beyond it are the old ones. -/
theorem bufWrite_take_reads (mem : Memory) (q : List Byte) (ms : Nat) :
    bufRead (bufWrite mem 0 (q.take ms)) 0 (min q.length ms) = some (q.take ms) ∧
    ∀ j, min q.length ms ≤ j → (bufWrite mem 0 (q.take ms)).read j = mem.read j := by
  have size : (q.take ms).length = min q.length ms := by rw [List.length_take, Nat.min_comm]
  exact ⟨size ▸ bufRead_bufWrite _ _ _, fun _ hj => read_bufWrite_outside _ _ _ (.inr (by omega))⟩

/-- R134, R136, R137: what a `RECEIVE` that returns the delivered frame of payload `q` and number `f`, from `R_DL` of any
attempt, leaves in the registers and in the three buffers. -/
def ReturnsTheDelivered (s : State) (ms t steps : Nat) (q : List Byte) (f : Byte) (h : Handle) (rest : List Input) : Prop :=
  ∃ tb rb ob ln polls,
    stepN steps s = .next (State.finish { s with
      rxLast := f
      counters := { s.counters with goodRx := s.counters.goodRx + 1, acksSent := s.counters.acksSent + 1 },
      txBuf := tb, txLen := 5, rxBuf := rb, rxLen := q.length + 5, hostOut := ob, outLen := min q.length ms,
      deadline := t + 6 * s.params.ticksPerSecond, lastNow := ln, inputs := rest,
      trace := ⟨.chanWrite h (frameOf [] f), .chanWrite 5⟩ :: polls ++ ⟨.now, .now t⟩ :: s.trace }
      { Result.plain .ok with value := BitVec.ofNat 16 (min q.length ms) }) ∧
    bufRead tb 0 5 = some (frameOf [] f) ∧ (∀ j, 5 ≤ j → tb.read j = s.txBuf.read j) ∧
    bufRead rb 0 (q.length + 5) = some (frameOf q f) ∧ (∀ j, q.length + 5 ≤ j → rb.read j = s.rxBuf.read j) ∧
    bufRead ob 0 (min q.length ms) = some (q.take ms) ∧
    (∀ j, min q.length ms ≤ j → ob.read j = s.hostOut.read j) ∧ ∀ x ∈ polls, x.isPoll h

/-- The run of `receive_returns`, with what a read of each buffer then answers. -/
theorem receive_returnsTheDelivered {s : State} {ms m e t : Nat} {q : List Byte} {f : Byte} {h : Handle} {dv : Delivery}
    {rest : List Input} (hr : s.refused = false) (hc : s.ctrl = .rDl ms m e) (hh : s.chanHandle = some h)
    (hq : q.length ≤ 200) (hf : f.toNat = e ∨ (f.toNat : Int) = sint8 s.rxLast) (ht : s.lastNow ≤ t)
    (hd : dv.bringsFrame t (t + 6 * s.params.ticksPerSecond) q f)
    (hi : s.inputs = .answer (.now t) :: (dv.inputs q ++ .answer (.chanWrite 5) :: rest)) :
    ReturnsTheDelivered s ms t (1 + dv.steps + 1) q f h rest := by
  obtain ⟨rb, ln, polls, run, read, beyond, hpolls⟩ := receive_returns hr hc hh hq hf ht hd hi
  rw [List.length_take, Nat.min_comm] at run
  obtain ⟨ack, ackBeyond⟩ := bufWrite_frameOf_reads s.txBuf (p := []) rfl f
  obtain ⟨out, outBeyond⟩ := bufWrite_take_reads s.hostOut q ms
  exact ⟨_, rb, _, ln, polls, run, ack, ackBeyond, read, beyond, out, outBeyond, hpolls⟩

/-! ### The obligations -/

/-- Settles O44: the frame carries the expected number, so its data is returned and its number is left in `RX_LAST`. -/
theorem receiveAcceptsTheExpectedBlock : Obligations.ReceiveAcceptsTheExpectedBlock := by
  intro s max attempts e t0 q f h d rest hr hc hh ha he hq hf ht hd hi
  exact ⟨exec_receive_waits hc ha he, fun _ => receive_returnsTheDelivered hr rfl hh hq (.inl hf) ht hd hi⟩

/-- Settles O45: the frame's data is returned on the duplicate path too, and its number is the one `RX_LAST` holds. -/
theorem receiveRedeliversADuplicate : Obligations.ReceiveRedeliversADuplicate := by
  intro s max attempts e t0 q f h d rest hr hc hh ha he hq hf ht hd hi
  obtain rfl := eq_of_toNat_eq_sint8 hf
  exact ⟨exec_receive_waits hc ha he, fun _ => receive_returnsTheDelivered hr rfl hh hq (.inr hf) ht hd hi⟩

/-- Settles O46: the frame is answered with an echo of `RX_LAST`, and the head of the loop takes the next attempt or gives
up. -/
theorem receiveNaksAnOutOfSequenceFrame : Obligations.ReceiveNaksAnOutOfSequenceFrame := by
  intro s max attempts e t0 q f h d rest hr hc hh ha he hq hne hlast ht hd hi
  refine ⟨exec_receive_waits hc ha he, fun n => ?_⟩
  obtain ⟨ack, ackBeyond⟩ := bufWrite_frameOf_reads s.txBuf (p := []) rfl s.rxLast
  obtain ⟨rb, ln, polls, ct, run, read, beyond, hpolls⟩ := receive_naks
    (s := { s with attempt := n, ctrl := .rDl max attempts e }) hr rfl hh hq hne hlast ht hd hi
  exact ⟨_, rb, ln, polls, run.trans receiveRetry_eq, ack, ackBeyond, read, beyond, hpolls⟩

/-- Settles O47: the answer is compared with the acknowledgment's length before the path is looked at. -/
theorem failedAckWriteEndsTheReceive : Obligations.FailedAckWriteEndsTheReceive := by
  intro s max attempts e path f d xs h k rest hr hc hh hx hk hi
  exact (step_rAck hr hc hh hx hi hk.le).trans (ackWrote_short hk)

/-- Settles O48: every lost attempt is counted and goes on to the head of the loop. -/
theorem lostReceiveAttemptIsCountedAndNotAcknowledged : Obligations.LostReceiveAttemptIsCountedAndNotAcknowledged := by
  intro s max attempts e o c hlost
  have counted := receiveOutcome_lost (ms := max) (m := attempts) (e := e) (show ReceiveAttemptLost s o c from hlost)
  exact ⟨fun hn => counted.trans (receiveRetry_waits hn), fun hn => counted.trans (receiveRetry_givesUp hn)⟩

end Sys2Proof.Machine

/-! The lifecycle's statements (spec/45_lifecycle.md): what issuing each command does, and what the answer that `CONNECT`
or `DISCONNECT` waits for makes of it. -/

namespace Sys2Proof.Machine

section
variable {s : State} {rest : List Input}

/-! ### Issuing a lifecycle command -/

theorem exec_connect_refused (hc : s.connected = true) : exec .connect s = .refused .connectWhileConnected := if_pos hc

theorem exec_connect_waits (hc : s.connected = false) : exec .connect s = .next { s with ctrl := .lOpen } :=
  if_neg (by simp [hc])

theorem exec_disconnect_waits (hc : s.connected = true) : exec .disconnect s = .next { s with ctrl := .lClose } :=
  whenConnected_connected hc _

theorem exec_disconnect_usageError (hc : s.connected = false) :
    exec .disconnect s = .next (s.finish (Result.plain .usageError)) := whenConnected_disconnected hc _

/-! ### The channel's answers -/

theorem waiting_lOpen (hc : s.ctrl = .lOpen) : s.waiting = .call (.chanOpen s.params.channel) := by
  simp [State.waiting, hc]

theorem waiting_lClose {h : Handle} (hc : s.ctrl = .lClose) (hh : s.chanHandle = some h) :
    s.waiting = .call (.chanClose h) := by
  simp [State.waiting, hc, withHandle_some hh]

/-- R149: the channel answers at `L_OPEN`. -/
theorem step_lOpen {r : OpenAnswer} (hr : s.refused = false) (hc : s.ctrl = .lOpen)
    (hi : s.inputs = .answer (.chanOpen r) :: rest) :
    step s = connectOpened r
      { s with inputs := rest, trace := ⟨.chanOpen s.params.channel, .chanOpen r⟩ :: s.trace } :=
  (step_answers hr hi (waiting_lOpen (by exact hc)) (admits_chanOpen.2 ⟨r, rfl⟩)).trans
    (afterAnswer_lOpen (by exact hc) r)

/-- R149: a `CONNECT` while disconnected waits for `ChanOpen`, and whatever the channel answers decides its end. -/
theorem connect_answered {r : OpenAnswer} (hr : s.refused = false) (hc : s.connected = false)
    (hi : s.inputs = .answer (.chanOpen r) :: rest) :
    ∃ a, exec .connect s = .next a ∧ a.waiting = .call (.chanOpen s.params.channel) ∧
      step a = connectOpened r { s with
        ctrl := .lOpen, inputs := rest, trace := ⟨.chanOpen s.params.channel, .chanOpen r⟩ :: s.trace } :=
  ⟨_, exec_connect_waits hc, waiting_lOpen rfl, step_lOpen hr rfl hi⟩

/-- R150: the channel answers at `L_CLOSE`. -/
theorem step_lClose {h : Handle} {r : CloseAnswer} (hr : s.refused = false) (hc : s.ctrl = .lClose)
    (hh : s.chanHandle = some h) (hi : s.inputs = .answer (.chanClose r) :: rest) :
    step s = disconnectClosed r { s with inputs := rest, trace := ⟨.chanClose h, .chanClose r⟩ :: s.trace } :=
  (step_answers hr hi (waiting_lClose (by exact hc) (by exact hh)) (admits_chanClose.2 ⟨r, rfl⟩)).trans
    (afterAnswer_lClose (by exact hc) r)

end

/-! ### The obligations -/

/-- Settles O13: `CONNECT` waits at `L_OPEN`, and either answer of the channel there ends it; the refusal comes before. -/
theorem connectOpensOrReportsOrIsRefused : Obligations.ConnectOpensOrReportsOrIsRefused :=
  ⟨fun _ _ _ => connect_answered, fun _ _ _ => connect_answered, fun _ => exec_connect_refused⟩

/-- Settles O14: `DISCONNECT` waits at `L_CLOSE`, and either answer of the channel there ends it and the session. -/
theorem disconnectEndsTheSession : Obligations.DisconnectEndsTheSession := by
  refine ⟨fun s h r rest hr hc hh hi => ?_, fun s hc => exec_disconnect_usageError hc⟩
  have hstep := step_lClose (s := { s with ctrl := .lClose }) hr rfl hh hi
  refine ⟨_, exec_disconnect_waits hc, waiting_lClose rfl hh, hstep.trans ?_⟩
  cases r with
  | ok => rfl
  | err c => rfl

/-- Settles O15: each of the four checks `CONNECTED` before anything else. -/
theorem disconnectedCommandsAreUsageErrors : Obligations.DisconnectedCommandsAreUsageErrors := by
  intro s x y hc i hi
  simp only [List.mem_cons, List.not_mem_nil, or_false] at hi
  rcases hi with rfl | rfl | rfl | rfl
  · exact exec_send_usageError (.inl hc)
  · exact whenConnected_disconnected hc _
  · exact whenConnected_disconnected hc _
  · exact exec_disconnect_usageError hc

/-- Settles O16: the command has no precondition and no control point, and `OPTIMAL_BLOCK` fits `VALUE`. -/
theorem optimalBlockSizeAnswersSeventy : Obligations.OptimalBlockSizeAnswersSeventy := fun _ => done_eq _ _

end Sys2Proof.Machine

/-! The refusals (spec/60_exceptions.md R174): for which reasons each operation of the block refuses. Only two reasons come
from a command that is issued, and the computation after an admitted answer refuses for none: under the invariant every
retry of `SEND` finds its payload in `HOST_IN`, and a frame is verified before it is extracted. -/

namespace Sys2Proof.Machine

/-- A refusal is for a reason that `p` allows. A next state is allowed, and so is a fault, which is `Safe`'s concern. -/
def RefusesOnly (p : Refusal → Prop) : Out → Prop
  | .next _    => True
  | .fault _   => True
  | .refused r => p r

/-- R119: the payload that a retry of the caller's command reads again is written and of legal length. -/
def Caller.payloadHeld (c : Caller) (hostIn : Memory) : Prop :=
  ∀ len m, c = .send len m → len ≤ 200 ∧ hostIn.holds len

theorem State.sendOk.payload {s : State} {len m : Nat} (h : s.sendOk len m) : len ≤ 200 ∧ s.hostIn.holds len := by
  obtain ⟨hl, -, -, -, -, x, hx, -⟩ := h
  exact ⟨hl, by simp [Memory.holds, hx]⟩

theorem State.callerOk.payloadHeld {s : State} {c : Caller} (h : s.callerOk c) : c.payloadHeld s.hostIn := by
  rintro len m rfl
  exact State.sendOk.payload h

namespace RefusesOnly

variable {p : Refusal → Prop} {s : State}

theorem whenConnected {k : Out} (hk : RefusesOnly p k) : RefusesOnly p (whenConnected s k) := by
  unfold Machine.whenConnected
  split
  · exact hk
  · trivial

theorem withHostIn {n : Nat} {k : List Byte → Out} (hu : ¬ s.hostIn.holds n → p .unwrittenHostInput)
    (hk : ∀ xs, bufRead s.hostIn 0 n = some xs → RefusesOnly p (k xs)) : RefusesOnly p (withHostIn n s k) := by
  rcases hx : bufRead s.hostIn 0 n with _ | xs
  · rw [withHostIn_unwritten hx]
    exact hu (by simp [Memory.holds, hx])
  · rw [withHostIn_written hx]
    exact hk xs hx

theorem withRxFrame {n : Nat} {k : List Byte → Out} (hk : ∀ f, RefusesOnly p (k f)) :
    RefusesOnly p (withRxFrame n s k) := by
  unfold Machine.withRxFrame
  split
  · exact hk _
  · trivial

/-! ### The retry loops -/

theorem sendAttempt {len m n : Nat} (hl : len ≤ 200) (hu : ¬ s.hostIn.holds len → p .unwrittenHostInput) :
    RefusesOnly p (sendAttempt len m n s) := by
  rcases sendAttempt_cases s m n hl with ⟨-, e⟩ | ⟨-, hx, e⟩ | ⟨-, x, -, e⟩ <;> rw [e]
  · trivial
  · exact hu (by simp [Memory.holds, hx])
  · trivial

theorem sendRetry {len m : Nat} (h : len ≤ 200 ∧ s.hostIn.holds len) : RefusesOnly p (sendRetry len m s) :=
  sendAttempt h.1 fun hu => absurd h.2 hu

theorem receiveAttempt (ms m e n : Nat) : RefusesOnly p (receiveAttempt ms m e n s) := by
  unfold Machine.receiveAttempt
  split <;> trivial

/-! ### The framer's outcome at its caller -/

theorem sendOutcome {len m : Nat} (h : len ≤ 200 ∧ s.hostIn.holds len) (o : FramerOutcome) :
    RefusesOnly p (sendOutcome len m o s) := by
  cases o with
  | channelError c => trivial
  | timeout => exact sendRetry h
  | overflow => exact sendRetry h
  | got n =>
    refine withRxFrame fun f => ?_
    split
    · exact sendRetry h
    · unfold sendResponse
      dsimp only
      split
      · trivial
      · exact sendRetry h

/-- A frame is extracted only when it is Good. -/
theorem receiveOutcome (ms m e : Nat) (o : FramerOutcome) : RefusesOnly p (receiveOutcome ms m e o s) := by
  cases o with
  | channelError c => trivial
  | timeout => exact receiveAttempt ..
  | overflow => exact receiveAttempt ..
  | got n =>
    refine withRxFrame fun f => ?_
    split
    · exact receiveAttempt ..
    next hv =>
      rw [withExtracted_ok (extractPayload_good ms hv)]
      unfold receiveFrame
      dsimp only
      rw [sendAck_eq]
      trivial

theorem framerReturn {c : Caller} (h : c.payloadHeld s.hostIn) (o : FramerOutcome) :
    RefusesOnly p (framerReturn c o s) := by
  cases c with
  | readFrame => cases o <;> trivial
  | send len m => exact sendOutcome (h len m rfl) o
  | receive ms m e => exact receiveOutcome ..

theorem framerGoesOn {c : Caller} (dl : Nat) {x : FramerStep} (h : c.payloadHeld x.state.hostIn) :
    RefusesOnly p (framerGoesOn c dl x) := by
  cases x with
  | waitNow ph s => trivial
  | waitRead ph s => trivial
  | returns o s => exact framerReturn h o

/-! ### An answer -/

theorem ackWrote (ms m e : Nat) (path : AckPath) (d : List Byte) (k : Int) :
    RefusesOnly p (ackWrote ms m e path d k s) := by
  unfold Machine.ackWrote
  split
  · trivial
  · cases path with
    | newBlock => trivial
    | duplicate => trivial
    | outOfSequence => exact receiveAttempt ..

theorem framerNow {c : Caller} (h : c.payloadHeld s.hostIn) (dl : Nat) (ph : Phase) (t : Nat) :
    RefusesOnly p (Machine.framerGoesOn c dl (framerNow dl ph t s)) :=
  framerGoesOn dl (by rwa [framerNow_state])

theorem framerRead {c : Caller} (h : c.payloadHeld s.hostIn) (dl : Nat) (ph : Phase) (r : ReadAnswer) :
    RefusesOnly p (Machine.framerGoesOn c dl (framerRead ph r s)) := by
  have hi : (Machine.framerRead ph r s).state.hostIn = s.hostIn :=
    congrArg Surroundings.hostIn (framerRead_surroundings ph r s)
  exact framerGoesOn dl (by rwa [hi])

/-- Under the invariant, the computation after an admitted answer is refused for no reason at all: the answer is one of the
called primitive, and what the command reads again is there. -/
theorem afterAnswer {c : Call} {a : Answer} {now : Nat} (h : s.Inv) (hw : s.waiting = .call c)
    (ha : c.admits now a = true) : RefusesOnly p (afterAnswer a s) := by
  have hk := h.control
  unfold State.waiting at hw
  cases hc : s.ctrl <;> rw [hc] at hw
  case idle => cases hw
  case lOpen =>
    cases hw
    obtain ⟨r, rfl⟩ := admits_chanOpen.1 ha
    rw [afterAnswer_lOpen hc]
    cases r <;> trivial
  case lClose =>
    obtain ⟨d, -, hd⟩ := withHandle_call hw
    cases hd
    obtain ⟨r, rfl⟩ := admits_chanClose.1 ha
    rw [afterAnswer_lClose hc]
    cases r <;> trivial
  -- the clock's answer ends the command or starts the framer
  case tSet | tElapsed | fCmdT | sDl | rDl =>
    cases hw
    obtain ⟨t, rfl, -⟩ := admits_now.1 ha
    simp only [Machine.afterAnswer, hc]
    trivial
  case framerT cl dl ph =>
    cases hw
    obtain ⟨t, rfl, -⟩ := admits_now.1 ha
    obtain ⟨-, -, hcl, -⟩ := (State.ctrlOk_framerT hc).1 hk
    rw [afterAnswer_framerT hc]
    exact framerNow hcl.payloadHeld dl ph t
  case framerR cl dl ph =>
    obtain ⟨d, -, hd⟩ := withHandle_call hw
    cases hd
    obtain ⟨r, rfl⟩ : ∃ r, a = .chanRead r := by
      rcases admits_chanRead.1 ha with ⟨ys, e, -⟩ | ⟨k, e, -⟩ <;> exact ⟨_, e⟩
    obtain ⟨-, -, hcl, -⟩ := (State.ctrlOk_framerR hc).1 hk
    rw [afterAnswer_framerR hc]
    exact framerRead hcl.payloadHeld dl ph r
  case sWrite l m =>
    obtain ⟨d, xs, -, rfl⟩ := writeCall_call hw
    obtain ⟨k, rfl, -⟩ := admits_chanWrite.1 ha
    rw [afterAnswer_sWrite hc]
    unfold sendWrote
    split <;> trivial
  case rAck ms m e path f d =>
    obtain ⟨b, xs, -, rfl⟩ := writeCall_call hw
    obtain ⟨k, rfl, -⟩ := admits_chanWrite.1 ha
    rw [afterAnswer_rAck hc]
    exact ackWrote ms m e path d k

/-! ### A command -/

/-- R149, R45: a command is refused as a `CONNECT` while connected, or where it would read an unwritten `HOST_IN` byte. -/
theorem exec (i : Instr) :
    RefusesOnly (fun r => r = .connectWhileConnected ∧ s.connected = true ∨ r = .unwrittenHostInput) (exec i s) := by
  cases i with
  | connect =>
    show RefusesOnly _ (execConnect s)
    unfold execConnect
    split
    next hc => exact .inl ⟨rfl, hc⟩
    · trivial
  | disconnect => exact whenConnected trivial
  | send len m =>
    show RefusesOnly _ (execSend len m s)
    unfold execSend
    split
    · trivial
    next hc =>
      obtain ⟨-, hl⟩ := not_or.1 hc
      exact sendAttempt (Nat.le_of_not_lt hl) fun _ => .inr rfl
  | receive ms m => exact whenConnected (receiveAttempt ..)
  | optimalBlockSize => trivial
  | checksum seq tlen =>
    show RefusesOnly _ (execChecksum seq tlen s)
    unfold execChecksum
    split
    · trivial
    · exact withHostIn (fun _ => .inr rfl) fun x _ => trivial
  | buildData len seq =>
    show RefusesOnly _ (execBuildData len seq s)
    unfold execBuildData
    split
    · trivial
    next hl =>
      refine withHostIn (fun _ => .inr rfl) fun x hx => ?_
      have hx200 : x.length ≤ 200 := (bufRead_length hx).trans_le (Nat.le_of_not_lt hl)
      rw [withBuilt_ok (buildDataFrame_ok _ hx200)]
      trivial
  | buildAck seq =>
    show RefusesOnly _ (execBuildAck seq s)
    unfold execBuildAck
    rw [withBuilt_ok (buildAckFrame_ok _)]
    trivial
  | verify n =>
    show RefusesOnly _ (execVerify n s)
    unfold execVerify
    split
    · trivial
    · refine withHostIn (fun _ => .inr rfl) fun f _ => ?_
      split <;> trivial
  | extract n max =>
    show RefusesOnly _ (execExtract n max s)
    unfold execExtract
    split
    · trivial
    · refine withHostIn (fun _ => .inr rfl) fun f _ => ?_
      split
      · trivial
      next hv =>
        rw [withExtracted_ok (extractPayload_good max hv)]
        trivial
  | readFrame secs => exact whenConnected trivial
  | setDeadline secs => trivial
  | elapsed => trivial

end RefusesOnly

/-! ### What each item from outside is refused for -/

section
variable {s : State} {r : Refusal}

/-- R72: a byte of the host is refused only while a command runs. -/
theorem hostWrite_refused {i : Fin Config.hostBufCap} {b : Byte} (h : hostWrite i b s = .refused r) :
    r = .hostWriteWhileBusy ∧ s.ctrl ≠ .idle := by
  unfold hostWrite at h
  split at h
  · cases h
  next hc => cases h; exact ⟨rfl, hc⟩

/-- R72, R77, R174: a command word is refused while a command runs, and an idle block refuses what its command refuses. -/
theorem issue_refused {w : Word} (h : issue w s = .refused r) :
    (r = .commandWhileBusy ∧ s.ctrl ≠ .idle) ∨
    (s.ctrl = .idle ∧ (r = .connectWhileConnected ∧ s.connected = true ∨ r = .unwrittenHostInput)) := by
  by_cases hc : s.ctrl = .idle
  · cases hd : decode w with
    | ok i =>
      have hi := RefusesOnly.exec (s := s) i
      rw [← issue_legal hc hd, h] at hi
      exact .inr ⟨hc, hi⟩
    | error e =>
      rw [issue_illegal hc hd] at h
      cases h
  · rw [issue_busy hc w] at h
    cases h
    exact .inl ⟨rfl, hc⟩

/-- R14: under the invariant only an answer outside the contract of the call in progress is refused. -/
theorem resume_refused {a : Answer} (hs : s.Inv) (h : resume a s = .refused r) :
    r = .answerOutsideContract ∧ ∀ c, s.waiting = .call c → c.admits s.lastNow a = false := by
  rcases resume_cases a s with ⟨c, hw, ha, e⟩ | ⟨f, -, e⟩ | ⟨e, hout⟩ <;> rw [e] at h
  · have hn := RefusesOnly.afterAnswer (p := fun _ => False) (hs.exchange c a) hw ha
    rw [h] at hn
    exact hn.elim
  · cases h
  · cases h
    exact ⟨rfl, hout⟩

end

/-! ### The obligation -/

/-- Settles O52: the mark is not set under the invariant, and each kind of item has its lemma above. -/
theorem onlyTheListedRefusalsOccur : Obligations.OnlyTheListedRefusalsOccur := by
  intro s r hs hr
  rcases step_cases s with ⟨hset, -⟩ | ⟨-, -, e⟩ | ⟨-, x, xs, hi, e⟩
  · simp [hs.notRefused] at hset
  · rw [e] at hr
    cases hr
  · rw [e] at hr
    cases x with
    | hostWrite i b =>
      obtain ⟨rfl, hc⟩ := hostWrite_refused hr
      exact .inr (.inr (.inl ⟨rfl, hc⟩))
    | command w =>
      rcases issue_refused hr with hbusy | ⟨hc, ⟨rfl, hcon⟩ | rfl⟩
      · exact .inr (.inl hbusy)
      · exact .inl ⟨rfl, hcon, hc⟩
      · exact .inr (.inr (.inr (.inl ⟨rfl, hc⟩)))
    | answer a =>
      obtain ⟨hout, hno⟩ := resume_refused (hs.takeInput xs) hr
      exact .inr (.inr (.inr (.inr ⟨hout, a, xs, hi, hno⟩)))

end Sys2Proof.Machine
